-- ==== Sys2Proof/Word.lean ====
section
/-! DEFINITION. The word types of the block: rule R10's u8, u16/s16 and u32. -/

namespace Sys2Proof

/-- u8: a register byte, a register address, a command's `OP` and `A` fields, `S.status` (R10, R50, R71). -/
abbrev Byte := BitVec 8

/-- u16 and s16: a command's `IMM` field, `S.delay`, the thresholds, the reference, the polarity (R10, R30, R33).
A signed reading is `toInt`, an unsigned one `toNat`. -/
abbrev Half := BitVec 16

/-- u32: a command word and `S.result` (R22, R70). -/
abbrev Word := BitVec 32

end Sys2Proof
end

