-- ==== Sys2Proof/Config.lean ====
section
/-! DEFINITION. The implementation parameters of rule R8, the reference configuration REFCFG (D53), the events and
answers the environment chooses, and the free values: opaque constants of which nothing can be proved. -/

namespace Sys2Proof

/-- The three position states (R18, R32). -/
inductive Zone where
  | a
  | b
  | c
  deriving DecidableEq, Repr, Inhabited

/-- The opaque handle a granted interrupt-line request returns (R37, R143). A number only so that handles can be
compared and written down; no rule computes with one. DESIGN CHOICE, safe (log 13). -/
abbrev Handle := Nat

/-- What can occur at an event boundary (R250): the three kinds of event the block takes, and the two lifecycle
events of the glue, INIT (R272) and DETACH (R275). -/
inductive Event where
  /-- the host presents one command word (R70) -/
  | command (w : Word)
  /-- the collaborator starts the deferred worker (R247) -/
  | workerRun
  /-- a falling edge on the interrupt line (R248) -/
  | irqEdge
  /-- the glue attaches the device: INIT (R272) -/
  | init
  /-- the glue detaches the device: DETACH (R275) -/
  | detach
  deriving DecidableEq, Repr, Inhabited

/-- The parameters of R8. A field the source gives a value has that value as its default (D49); the others are OPEN.
They are fixed before INIT and no event changes them (R20, R274). The widths of the fields are those of the elements they
reset or bound. DEDUCED, unsafe (log 14). -/
structure Config where
  /-- `MAX_XFER`: largest transfer in bytes -/
  maxXfer : Nat := 17
  /-- `SRST_SETTLE_MS` -/
  srstSettleMs : Nat := 20
  /-- `HYST`: hysteresis margin in sample units -/
  hyst : Int := 15
  /-- `CAL_N`: samples per calibration run -/
  calN : Nat := 10
  /-- `CAL_FIRST_WAIT_MS` -/
  calFirstWaitMs : Nat := 30
  /-- `CAL_SAMPLE_WAIT_MS` -/
  calSampleWaitMs : Nat := 30
  /-- `CAL_FREQ` in Hz. What a calibration writes is its encoding `freq40Hz`; no rule reads this number (log 18). -/
  calFreqHz : Nat := 40
  /-- `CAL_TOL`: threshold tolerance around the reference -/
  calTol : Int := 12
  /-- `POL_RESET`: −1 -/
  polReset : Half := 0xFFFF
  /-- `CALREF_RESET` -/
  calRefReset : Half := 0x0000
  addrOpf : Byte
  addrIntsrs : Byte
  addrHthH : Byte
  addrHthL : Byte
  addrLthH : Byte
  addrLthL : Byte
  addrLatch : Byte
  latchClearValue : Byte
  addrSrst : Byte
  srstValue : Byte
  addrId : Byte
  idValue : Byte
  sampleAddr : Byte
  sampleLen : Nat
  statusIdx : Nat
  drdyMask : Byte
  hiIdx : Nat
  loIdx : Nat
  /-- `OPF_ACTIVE`: the one-bit mask of the "sensor active" bit -/
  opfActive : Byte
  /-- `OPF_FUSE`: the one-bit mask of the "fuse-ROM-read" bit -/
  opfFuse : Byte
  opfResMask : Byte
  res8 : Byte
  res10 : Byte
  opfFreqMask : Byte
  freq40Hz : Byte
  /-- `INTSRS_DET`: the one-bit mask of the detection-mode bit, set = interrupt -/
  intsrsDet : Byte
  intsrsTypeMask : Byte
  typeWithin : Byte
  typeBeside : Byte
  intsrsSensMask : Byte
  calSens : Byte
  opfReset : Byte
  intsrsReset : Byte
  thReset : Half
  tlReset : Half
  lastZoneReset : Zone
  delayMin : Half
  delayReset : Half
  enableSettleMs : Nat
  irqLine : Nat
  rawPassthrough : Bool
  deriving DecidableEq, Repr

/-- REFCFG (D53), the example configuration of the spec's vectors. Not a claim about any sensor.
DESIGN CHOICE, unsafe (log 2): `State.reset` carries it. -/
def Config.refcfg : Config where
  addrId := 0x00
  idValue := 0x5A
  sampleAddr := 0x10
  sampleLen := 3
  statusIdx := 0
  drdyMask := 0x01
  hiIdx := 1
  loIdx := 2
  addrIntsrs := 0x20
  addrHthH := 0x21
  addrHthL := 0x22
  addrLthH := 0x23
  addrLthL := 0x24
  addrLatch := 0x25
  latchClearValue := 0x01
  addrOpf := 0x30
  addrSrst := 0x3F
  srstValue := 0x01
  opfActive := 0x01
  opfFuse := 0x02
  opfFreqMask := 0x0C
  freq40Hz := 0x0C
  opfResMask := 0x10
  res8 := 0x00
  res10 := 0x10
  intsrsDet := 0x80
  intsrsTypeMask := 0x40
  typeWithin := 0x00
  typeBeside := 0x40
  intsrsSensMask := 0x07
  calSens := 0x00
  opfReset := 0x00
  intsrsReset := 0x00
  thReset := 100
  tlReset := -100
  lastZoneReset := .b
  delayMin := 10
  delayReset := 200
  enableSettleMs := 10
  irqLine := 0
  rawPassthrough := false

/-- What the elements of a block hold once DETACH has lost its state (R256, R275). Where a rule bounds an element in every
state, the type here keeps the bound: a reference is in −512 to 511 (R34) and a status is a code of R240. -/
structure LostState where
  opf : Byte
  intsrs : Byte
  enabled : Bool
  delay : Half
  debug : Bool
  lastZone : Zone
  th : Half
  tl : Half
  calRef : BitVec 10
  pol : Half
  calHighDone : Bool
  calLowDone : Bool
  result : Word
  status : Fin 7
  deriving DecidableEq, Repr, Inhabited

/-! ### Free values

Each is an opaque constant applied to a counter of the state or to the operands of the value it stands for. Where the
state lists an answer of the environment, that answer is used; these stand for the answers no list gives. -/

/-- The event at a boundary for which `State.env` lists none (R250, U5, U6, U7). -/
opaque Config.freeEvent : Nat → Event

/-- Whether a bus transaction is acknowledged, where `State.env` lists no answer (R54, U2). -/
opaque Config.freeAck : Nat → Bool

/-- A byte an acknowledged read returns, where `State.env` lists none (R54, U3). -/
opaque Config.freeByte : Nat → Byte

/-- The platform's answer to a line request, where `State.env` lists none (R143, U4). -/
opaque Config.freeGrant : Nat → Option Handle

/-- `b[i]` of a sample read for an index beyond `SAMPLE_LEN`: no rule states it (log 8). -/
opaque Config.byteBeyondRead : Nat → Byte

/-- What a 16-bit signed element holds when the number assigned to it is outside s16: no rule states it (log 9). -/
opaque Config.outsideS16 : Int → Half

/-- The mean of no samples, `CAL_N = 0`: no rule states it (log 10). -/
opaque Config.meanOfNone : Half

/-- What the elements hold after a DETACH: "All state, including calibration, is lost" (R275), and no rule states what is
there instead (log 17). -/
opaque Config.lostState : Nat → LostState

end Sys2Proof
end

