-- ==== Sys2Proof/Machine/State.lean ====
section
/-! DEFINITION. The state of the block (R20), what it emits (R14, R15), what the environment still has to say, and the
state after reset (R270). Plain data throughout. -/

namespace Sys2Proof.Machine

/-- The properties of an interrupt-line request (R143): falling edge, oneshot, exclusive. -/
structure IrqProps where
  fallingEdge : Bool
  oneshot : Bool
  exclusive : Bool
  deriving DecidableEq, Repr

/-- One observable event of the block (R14, R15, R258): what it sends, and for a transaction or a request what came
back. DESIGN CHOICE, safe (log 12): the answer stands in the event itself. -/
inductive Emitted where
  /-- one address-then-read transaction of `n` bytes; `none` is a non-acknowledgement (R53) -/
  | busRead (addr : Byte) (n : Nat) (answer : Option (List Byte))
  /-- one combined address and payload write; `ack` is the answer (R55) -/
  | busWrite (addr : Byte) (payload : List Byte) (ack : Bool)
  /-- a fixed delay (R288) -/
  | wait (ms : Nat)
  /-- the deferred-work slot is armed (R247) -/
  | schedule (ms : Nat)
  /-- the slot is disarmed synchronously (R247) -/
  | cancelAndWait
  /-- the interrupt line is requested; `none` is a refusal (R143) -/
  | irqRequest (line : Nat) (props : IrqProps) (answer : Option Handle)
  /-- the interrupt line is released (R144) -/
  | irqRelease (handle : Option Handle)
  /-- a value is delivered to the event sink (R184, R261) -/
  | publish (value : Int)
  /-- a logged, skipped failure (R262) -/
  | log (code : Byte)
  deriving DecidableEq, Repr

/-- The environment's answers still to come, in order. They are free inputs of the step (R54, R143, R250): a statement
holds for every such list. Where a list is exhausted the answer is a free value of `Config`, picked by `draws`.
DESIGN CHOICE, safe (log 3): the model's own field. -/
structure Env where
  /-- the event at each coming boundary -/
  events : List Event
  /-- the acknowledgement of each coming bus transaction -/
  acks : List Bool
  /-- the bytes coming acknowledged reads return -/
  bytes : List Byte
  /-- the platform's answer to each coming line request: a handle, or a refusal -/
  grants : List (Option Handle)
  /-- how many free values have been drawn -/
  draws : Nat
  deriving DecidableEq, Repr

/-- The state record `S` of R20, one field per element, and after them the model's own three fields. -/
structure State where
  /-- shadow of the OPF register (R23) -/
  opf : Byte
  /-- shadow of the INTSRS register (R24) -/
  intsrs : Byte
  /-- the lifecycle state (R29) -/
  enabled : Bool
  /-- the sampling interval in ms, u16 (R30) -/
  delay : Half
  /-- the diagnostic flag (R31) -/
  debug : Bool
  /-- the most recently classified zone (R32) -/
  lastZone : Zone
  /-- `threshold_high`, s16 (R33) -/
  th : Half
  /-- `threshold_low`, s16 (R33) -/
  tl : Half
  /-- `calibrated_reference`, s16 (R34) -/
  calRef : Half
  /-- `calibration_polarity`, s16 (R35) -/
  pol : Half
  /-- pass 1 (180°) has completed (R36) -/
  calHighDone : Bool
  /-- pass 2 (0°) has completed (R36) -/
  calLowDone : Bool
  /-- the interrupt line is requested (R37) -/
  irqAttached : Bool
  /-- the handle of the granted request (R37) -/
  irqHandle : Option Handle
  /-- the deferred-work slot (R38) -/
  pending : Bool
  /-- the value a command returned (R22) -/
  result : Word
  /-- the completion code of R240 (R22) -/
  status : Byte
  /-- attached and initialised (R38) -/
  alive : Bool
  /-- the configuration, an argument of the model (R8); no step changes it. DESIGN CHOICE, safe (log 1). -/
  cfg : Config
  /-- the environment's answers still to come (log 3) -/
  env : Env
  /-- everything the block has emitted, oldest first (R15). DESIGN CHOICE, safe (log 4): the model's own field. -/
  trace : List Emitted
  deriving DecidableEq, Repr

/-- The error kinds of R240 that `raise` names. -/
inductive Err where
  | transport
  | identityMismatch
  | interruptAttach
  | notReady
  | calibration
  | illegalCommand
  deriving DecidableEq, Repr

/-- Why the machine stops with a fault. -/
inductive Fault where
  /-- Raised by the step of a block that is not alive, at a boundary whose event is not INIT and not a command: "A
  model treats such a block as stuck: it has no step" (R273; R38). Safe: the block does nothing there. -/
  | stuckNotAlive
  deriving DecidableEq, Repr

/-- Why the machine refuses. -/
inductive Refusal where
  /-- An instruction with no meaning in this model yet: no arm of `exec` answers so. Safe. -/
  | notModelled (mnemonic : String)
  /-- Raised by the step of a block that is not alive when a command is presented: "is not taken" (R274, U19). Safe. -/
  | commandNotTaken
  deriving DecidableEq, Repr

/-- No answer listed: every answer is a free value. -/
def Env.none : Env := { events := [], acks := [], bytes := [], grants := [], draws := 0 }

/-- Right after reset: INIT is the block's reset (R271), and this is R270's table of values after a successful INIT, at
the configuration REFCFG (log 2). That reset means this state is DEDUCED (log 5). `OPF_RESET[OPF_ACTIVE := 0]` is `opf` after INIT's PowerDown write.
The trace begins empty here (log 4). -/
def State.reset : State where
  opf := Config.refcfg.opfReset &&& ~~~Config.refcfg.opfActive
  intsrs := Config.refcfg.intsrsReset
  enabled := false
  delay := Config.refcfg.delayReset
  debug := false
  lastZone := Config.refcfg.lastZoneReset
  th := Config.refcfg.thReset
  tl := Config.refcfg.tlReset
  calRef := Config.refcfg.calRefReset
  pol := Config.refcfg.polReset
  calHighDone := false
  calLowDone := false
  irqAttached := false
  irqHandle := Option.none
  pending := false
  result := 0
  status := 0
  alive := true
  cfg := Config.refcfg
  env := Env.none
  trace := []

end Sys2Proof.Machine
end

