-- ==== Sys2Proof/Machine/Flags.lean ====
section
/-! DEFINITION. The flag bits of the two shadowed registers: field access and update (R12), and the views derived from
the shadows (R25 to R28). The block has no arithmetic flags. -/

namespace Sys2Proof.Machine

/-- `r[M := e]`, that is `(r & ~M) | e` (R12). -/
def setField (r mask e : Byte) : Byte := (r &&& ~~~mask) ||| e

/-- `r[B := 1]`, that is `r | B` (R12). -/
def setBit (r bit : Byte) : Byte := r ||| bit

/-- `r[B := 0]`, that is `r & ~B` (R12). -/
def clearBit (r bit : Byte) : Byte := r &&& ~~~bit

/-- `r.M`, that is `r & M` (R12). -/
def field (r mask : Byte) : Byte := r &&& mask

/-- The operating modes (R26). -/
inductive Mode where
  | powerDown
  | measurement
  | fuseRomAccess
  deriving DecidableEq, Repr

/-- The operating mode is a function of the OPF shadow (R26). -/
def mode (c : Config) (opf : Byte) : Mode :=
  if field opf c.opfActive = 0 then .powerDown
  else if field opf c.opfFuse = 0 then .measurement
  else .fuseRomAccess

/-- The two resolutions of the codec (R120). -/
inductive Resolution where
  | eight
  | ten
  deriving DecidableEq, Repr

/-- 8 when the field holds `RES_8`, and 10 otherwise (R25, R27). -/
def resolution (c : Config) (opf : Byte) : Resolution := if field opf c.opfResMask = c.res8 then .eight else .ten

/-- The detection modes (R28). -/
inductive Detection where
  | interrupt
  | polling
  deriving DecidableEq, Repr

/-- Interrupt when the detection bit is set (R28). -/
def det (c : Config) (intsrs : Byte) : Detection := if field intsrs c.intsrsDet ≠ 0 then .interrupt else .polling

/-- The interrupt types (R18, R28). -/
inductive IrqType where
  | within
  | beside
  deriving DecidableEq, Repr

/-- "within" when the field holds `TYPE_WITHIN`, and "beside" otherwise (R25, R28). -/
def irqType (c : Config) (intsrs : Byte) : IrqType :=
  if field intsrs c.intsrsTypeMask = c.typeWithin then .within else .beside

/-- `enc(WITHIN) = TYPE_WITHIN; enc(BESIDE) = TYPE_BESIDE` (R181). -/
def irqTypeCode (c : Config) : IrqType → Byte
  | .within => c.typeWithin
  | .beside => c.typeBeside

end Sys2Proof.Machine
end

