-- ==== Sys2Proof/Syntax.lean ====
section
/-! DEFINITION. The commands: one constructor per row of the opcode map (R78), operands at the width of their field
(R71, R76); and a line of the assembly syntax (R81, R82). -/

namespace Sys2Proof

/-- A command of the block, in the order of R78's table. -/
inductive Instr where
  /-- ENC.8 (R126) -/
  | enc8 (value : Half)
  /-- ENC.10 (R127) -/
  | enc10 (value : Half)
  /-- DEC.8 (R128) -/
  | dec8 (hi lo : Byte)
  /-- DEC.10 (R129) -/
  | dec10 (hi lo : Byte)
  /-- CLS (R191) -/
  | cls (raw : Half)
  /-- UPDTHR (R192) -/
  | updthr
  /-- GETZONE (R193) -/
  | getzone
  /-- MODE.PD (R147) -/
  | modePd
  /-- MODE.MEAS (R148) -/
  | modeMeas
  /-- MODE.FUSE (R149) -/
  | modeFuse
  /-- SETDET.POLL (R153) -/
  | setdetPoll
  /-- SETDET.INT (R154) -/
  | setdetInt
  /-- ENABLE (R150) -/
  | enable
  /-- DISABLE (R151) -/
  | disable
  /-- SETDLY (R152) -/
  | setdly (ms : Half)
  /-- GETEN (R155) -/
  | geten
  /-- GETDLY (R156) -/
  | getdly
  /-- SETDBG (R157) -/
  | setdbg (b : Bool)
  /-- GETDBG (R158) -/
  | getdbg
  /-- SETTH (R194) -/
  | setth (v : Half)
  /-- GETTH (R195) -/
  | getth
  /-- SETTL (R196) -/
  | settl (v : Half)
  /-- GETTL (R197) -/
  | gettl
  /-- SETPOL (R198) -/
  | setpol (v : Half)
  /-- GETPOL (R199) -/
  | getpol
  /-- CAL (R214) -/
  | cal
  /-- CALPASS.1 (R215) -/
  | calpass1
  /-- CALPASS.2 (R216) -/
  | calpass2
  /-- GETREF (R217) -/
  | getref
  /-- GETCALST (R218) -/
  | getcalst
  /-- CALAPPLY.1 (R219) -/
  | calapply1
  /-- CALAPPLY.2 (R220) -/
  | calapply2
  /-- REGRD (R101) -/
  | regrd (addr : Byte)
  /-- REGWR (R102) -/
  | regwr (addr value : Byte)
  /-- CHKID (R103) -/
  | chkid
  /-- GETSHADOW.OPF (R104) -/
  | getshadowOpf
  /-- GETSHADOW.INTSRS (R105) -/
  | getshadowIntsrs
  deriving DecidableEq, Repr

/-- An operand as an assembly line writes it: an integer (R81) or one of the names of R82. -/
inductive AsmOperand where
  | number (v : Int)
  | name (n : List Char)
  deriving DecidableEq, Repr

/-- A line of the assembly syntax, split into its mnemonic and its operands (R81). -/
structure AsmLine where
  mnemonic : List Char
  operands : List AsmOperand
  deriving DecidableEq, Repr

end Sys2Proof
end

