-- ==== Sys2Proof/Decode.lean ====
section
/-! DEFINITION. The decoder of command words, total and rejecting by name (R78, R79), the encoder, and the opcode map
as a table of match and mask. Everything here is the encoding of R71 to R80. -/

namespace Sys2Proof

/-! ### The fields of a command word (R71) -/

/-- `OP = w[31:24]`. -/
def opField (w : Word) : Byte := w.extractLsb' 24 8

/-- `A = w[23:16]`. -/
def aField (w : Word) : Byte := w.extractLsb' 16 8

/-- `IMM = w[15:0]`. -/
def immField (w : Word) : Half := w.extractLsb' 0 16

/-- The word with fields `OP`, `A` and `IMM`: `{OP, A, IMM}`. -/
def packWord (op a : Byte) (imm : Half) : Word := (op ++ a ++ imm : BitVec (8 + 8 + 16))

/-- `IMM[15:8]`, the `hi` of a byte pair (R76). -/
def hiByte (imm : Half) : Byte := imm.extractLsb' 8 8

/-- `IMM[7:0]`, the `lo` of a byte pair (R76). -/
def loByte (imm : Half) : Byte := imm.extractLsb' 0 8

/-- The byte pair `{hi, lo}` as a 16-bit operand (R76). -/
def bytePair (hi lo : Byte) : Half := (hi ++ lo : BitVec (8 + 8))

/-! ### Decoding -/

/-- Why a word matches no row of the opcode map (R78, R79). Each is an illegal command; the block reports them all by
the one status `IllegalCommand`. -/
inductive Reject where
  /-- the opcode is one of the unassigned ones of R79 -/
  | unassignedOpcode (op : Byte)
  /-- the opcode's `A` field selects nothing -/
  | unknownSelector (op a : Byte)
  /-- a field, or a part of one, that the row does not use is not zero -/
  | unusedFieldNotZero (op : Byte)
  deriving DecidableEq, Repr

/-- Format N (R72): no operand, `A = 0` and `IMM = 0`. -/
def formatN (op a : Byte) (imm : Half) (i : Instr) : Except Reject Instr :=
  if a = 0 ∧ imm = 0 then .ok i else .error (.unusedFieldNotZero op)

/-- Format I with `A = 0x00` (R74). -/
def formatI (op a : Byte) (i : Instr) : Except Reject Instr :=
  if a = 0 then .ok i else .error (.unusedFieldNotZero op)

/-- Format I whose `A` selects one of two rows, 0x00 and 0x01 (R74). -/
def formatISelect (op a : Byte) (i0 i1 : Instr) : Except Reject Instr :=
  if a = 0 then .ok i0 else if a = 1 then .ok i1 else .error (.unknownSelector op a)

/-- Format N whose `A` holds a selector (R72): `rows` lists the selectors the map has. -/
def formatNSelect (op a : Byte) (imm : Half) (rows : List (Byte × Instr)) : Except Reject Instr :=
  match rows.find? (fun r => r.1 == a) with
  | none => .error (.unknownSelector op a)
  | some r => if imm = 0 then .ok r.2 else .error (.unusedFieldNotZero op)

/-- SETDBG's format A (R73): `A[7:1] = 0`, `IMM = 0` and the Boolean in `A[0]`. -/
def formatABool (op a : Byte) (imm : Half) : Except Reject Instr :=
  if a &&& 0xFE = 0 ∧ imm = 0 then .ok (.setdbg (a.getLsbD 0)) else .error (.unusedFieldNotZero op)

/-- REGRD's format A (R73): `A` is the register address and `IMM = 0`. -/
def formatAAddr (op a : Byte) (imm : Half) : Except Reject Instr :=
  if imm = 0 then .ok (.regrd a) else .error (.unusedFieldNotZero op)

/-- REGWR's format AI (R75): `A` is the address, `IMM[7:0]` the byte, `IMM[15:8] = 0`. -/
def formatAI (op a : Byte) (imm : Half) : Except Reject Instr :=
  if hiByte imm = 0 then .ok (.regwr a (loByte imm)) else .error (.unusedFieldNotZero op)

/-- The opcode map (R78) over the three fields. -/
def decodeFields (op a : Byte) (imm : Half) : Except Reject Instr :=
  if op = 0x01 then formatISelect op a (.enc8 imm) (.enc10 imm)
  else if op = 0x02 then
    formatISelect op a (.dec8 (hiByte imm) (loByte imm)) (.dec10 (hiByte imm) (loByte imm))
  else if op = 0x10 then formatI op a (.cls imm)
  else if op = 0x11 then formatN op a imm .updthr
  else if op = 0x12 then formatN op a imm .getzone
  else if op = 0x20 then formatNSelect op a imm [(0x00, .modePd), (0x01, .modeMeas), (0x02, .modeFuse)]
  else if op = 0x21 then formatNSelect op a imm [(0x00, .setdetPoll), (0x01, .setdetInt)]
  else if op = 0x22 then formatN op a imm .enable
  else if op = 0x23 then formatN op a imm .disable
  else if op = 0x24 then formatI op a (.setdly imm)
  else if op = 0x25 then formatN op a imm .geten
  else if op = 0x26 then formatN op a imm .getdly
  else if op = 0x27 then formatABool op a imm
  else if op = 0x28 then formatN op a imm .getdbg
  else if op = 0x30 then formatI op a (.setth imm)
  else if op = 0x31 then formatN op a imm .getth
  else if op = 0x32 then formatI op a (.settl imm)
  else if op = 0x33 then formatN op a imm .gettl
  else if op = 0x34 then formatI op a (.setpol imm)
  else if op = 0x35 then formatN op a imm .getpol
  else if op = 0x40 then formatN op a imm .cal
  else if op = 0x41 then formatNSelect op a imm [(0x01, .calpass1), (0x02, .calpass2)]
  else if op = 0x42 then formatN op a imm .getref
  else if op = 0x43 then formatN op a imm .getcalst
  else if op = 0x44 then formatNSelect op a imm [(0x01, .calapply1), (0x02, .calapply2)]
  else if op = 0x50 then formatAAddr op a imm
  else if op = 0x51 then formatAI op a imm
  else if op = 0x52 then formatN op a imm .chkid
  else if op = 0x53 then formatNSelect op a imm [(0x00, .getshadowOpf), (0x01, .getshadowIntsrs)]
  else .error (.unassignedOpcode op)

/-- The command a word stands for, or the reason it matches no row (R78, R80). -/
def decode (w : Word) : Except Reject Instr := decodeFields (opField w) (aField w) (immField w)

/-- The host's question: the command in an instruction of `nbits` bits numbered as the table numbers them. A command
word is one 32-bit word with no byte order (R70), so bits above the word decode to nothing. -/
def decodeTableWord (nbits w : Nat) : Option Instr :=
  if w % 2 ^ nbits < 2 ^ 32 then (decode (BitVec.ofNat 32 (w % 2 ^ nbits))).toOption else none

/-! ### Encoding -/

/-- The word of a command, from the same map (R71 to R78). -/
def encode : Instr → Word
  | .enc8 v => packWord 0x01 0x00 v
  | .enc10 v => packWord 0x01 0x01 v
  | .dec8 hi lo => packWord 0x02 0x00 (bytePair hi lo)
  | .dec10 hi lo => packWord 0x02 0x01 (bytePair hi lo)
  | .cls raw => packWord 0x10 0x00 raw
  | .updthr => packWord 0x11 0x00 0
  | .getzone => packWord 0x12 0x00 0
  | .modePd => packWord 0x20 0x00 0
  | .modeMeas => packWord 0x20 0x01 0
  | .modeFuse => packWord 0x20 0x02 0
  | .setdetPoll => packWord 0x21 0x00 0
  | .setdetInt => packWord 0x21 0x01 0
  | .enable => packWord 0x22 0x00 0
  | .disable => packWord 0x23 0x00 0
  | .setdly ms => packWord 0x24 0x00 ms
  | .geten => packWord 0x25 0x00 0
  | .getdly => packWord 0x26 0x00 0
  | .setdbg b => packWord 0x27 (if b then 0x01 else 0x00) 0
  | .getdbg => packWord 0x28 0x00 0
  | .setth v => packWord 0x30 0x00 v
  | .getth => packWord 0x31 0x00 0
  | .settl v => packWord 0x32 0x00 v
  | .gettl => packWord 0x33 0x00 0
  | .setpol v => packWord 0x34 0x00 v
  | .getpol => packWord 0x35 0x00 0
  | .cal => packWord 0x40 0x00 0
  | .calpass1 => packWord 0x41 0x01 0
  | .calpass2 => packWord 0x41 0x02 0
  | .getref => packWord 0x42 0x00 0
  | .getcalst => packWord 0x43 0x00 0
  | .calapply1 => packWord 0x44 0x01 0
  | .calapply2 => packWord 0x44 0x02 0
  | .regrd addr => packWord 0x50 addr 0
  | .regwr addr value => packWord 0x51 addr (bytePair 0 value)
  | .chkid => packWord 0x52 0x00 0
  | .getshadowOpf => packWord 0x53 0x00 0
  | .getshadowIntsrs => packWord 0x53 0x01 0

/-! ### The opcode map as a table -/

/-- A row of the opcode map: its match and its mask (R78). -/
structure OpcodeRow where
  pattern : Word
  mask : Word
  deriving DecidableEq, Repr

/-- A word matches a row when the bits under the mask are the row's (R78). -/
def OpcodeRow.hits (r : OpcodeRow) (w : Word) : Bool := w &&& r.mask == r.pattern

/-- The match and mask columns of R78's table, in its order. -/
def opcodeMap : List OpcodeRow :=
  [⟨0x01000000, 0xFFFF0000⟩, ⟨0x01010000, 0xFFFF0000⟩, ⟨0x02000000, 0xFFFF0000⟩, ⟨0x02010000, 0xFFFF0000⟩,
   ⟨0x10000000, 0xFFFF0000⟩, ⟨0x11000000, 0xFFFFFFFF⟩, ⟨0x12000000, 0xFFFFFFFF⟩, ⟨0x20000000, 0xFFFFFFFF⟩,
   ⟨0x20010000, 0xFFFFFFFF⟩, ⟨0x20020000, 0xFFFFFFFF⟩, ⟨0x21000000, 0xFFFFFFFF⟩, ⟨0x21010000, 0xFFFFFFFF⟩,
   ⟨0x22000000, 0xFFFFFFFF⟩, ⟨0x23000000, 0xFFFFFFFF⟩, ⟨0x24000000, 0xFFFF0000⟩, ⟨0x25000000, 0xFFFFFFFF⟩,
   ⟨0x26000000, 0xFFFFFFFF⟩, ⟨0x27000000, 0xFFFEFFFF⟩, ⟨0x28000000, 0xFFFFFFFF⟩] ++
  [⟨0x30000000, 0xFFFF0000⟩, ⟨0x31000000, 0xFFFFFFFF⟩, ⟨0x32000000, 0xFFFF0000⟩, ⟨0x33000000, 0xFFFFFFFF⟩,
   ⟨0x34000000, 0xFFFF0000⟩, ⟨0x35000000, 0xFFFFFFFF⟩, ⟨0x40000000, 0xFFFFFFFF⟩, ⟨0x41010000, 0xFFFFFFFF⟩,
   ⟨0x41020000, 0xFFFFFFFF⟩, ⟨0x42000000, 0xFFFFFFFF⟩, ⟨0x43000000, 0xFFFFFFFF⟩, ⟨0x44010000, 0xFFFFFFFF⟩,
   ⟨0x44020000, 0xFFFFFFFF⟩, ⟨0x50000000, 0xFF00FFFF⟩, ⟨0x51000000, 0xFF00FF00⟩, ⟨0x52000000, 0xFFFFFFFF⟩,
   ⟨0x53000000, 0xFFFFFFFF⟩, ⟨0x53010000, 0xFFFFFFFF⟩]

/-- The row of a command, by its place in R78's table. -/
def rowIndex : Instr → Nat
  | .enc8 _ => 0
  | .enc10 _ => 1
  | .dec8 _ _ => 2
  | .dec10 _ _ => 3
  | .cls _ => 4
  | .updthr => 5
  | .getzone => 6
  | .modePd => 7
  | .modeMeas => 8
  | .modeFuse => 9
  | .setdetPoll => 10
  | .setdetInt => 11
  | .enable => 12
  | .disable => 13
  | .setdly _ => 14
  | .geten => 15
  | .getdly => 16
  | .setdbg _ => 17
  | .getdbg => 18
  | .setth _ => 19
  | .getth => 20
  | .settl _ => 21
  | .gettl => 22
  | .setpol _ => 23
  | .getpol => 24
  | .cal => 25
  | .calpass1 => 26
  | .calpass2 => 27
  | .getref => 28
  | .getcalst => 29
  | .calapply1 => 30
  | .calapply2 => 31
  | .regrd _ => 32
  | .regwr _ _ => 33
  | .chkid => 34
  | .getshadowOpf => 35
  | .getshadowIntsrs => 36

end Sys2Proof
end

