-- ==== Sys2Proof/Machine/Operands.lean ====
section
/-! DEFINITION. Operand readings (R76), result encodings (R77), and the primitive arithmetic of R10 and R11. -/

namespace Sys2Proof.Machine

/-- `sext_16(IMM)` read as an `int` (R76). -/
def signedOperand (imm : Half) : Int := imm.toInt

/-- `zext_16(IMM)`, a number of milliseconds (R76). -/
def unsignedOperand (imm : Half) : Nat := imm.toNat

/-- `clamp(v, lo, hi)`: saturating, never wrapping (R11). -/
def clamp (v lo hi : Int) : Int := if v < lo then lo else if hi < v then hi else v

/-- `trunc_div(a, b)`: the integer quotient rounded toward zero (R11). -/
def truncDiv (a b : Int) : Int := a.tdiv b

/-- The s16 holding of a number (R10, R33, R34): exact inside s16. Outside it no rule states a value, and the value is
free. DESIGN CHOICE, safe (log 9). -/
def toS16 (v : Int) : Half := if -32768 ≤ v ∧ v ≤ 32767 then BitVec.ofInt 16 v else Config.outsideS16 v

/-- The zone code A = 0, B = 1, C = 2 (R32). -/
def zoneCode : Zone → Nat
  | .a => 0
  | .b => 1
  | .c => 2

/-- A zone in `S.result` (R77). -/
def zoneResult (z : Zone) : Word := BitVec.ofNat 32 (zoneCode z)

/-- An encoded byte pair in `S.result`: `{16'h0000, hi, lo}` (R77). -/
def pairResult (p : Byte × Byte) : Word := (0#16 ++ p.1 ++ p.2 : BitVec (16 + 8 + 8))

/-- A signed number in `S.result`: `sext_32` (R77). -/
def signedResult (v : Int) : Word := BitVec.ofInt 32 v

/-- An s16 element in `S.result`: `sext_32` (R77). -/
def s16Result (v : Half) : Word := v.signExtend 32

/-- A u16 element in `S.result`: `zext_32` (R77). -/
def u16Result (v : Half) : Word := v.zeroExtend 32

/-- A byte in `S.result`: `zext_32` (R77). -/
def byteResult (v : Byte) : Word := v.zeroExtend 32

/-- A Boolean in `S.result`: 0 or 1 (R77). -/
def boolResult (b : Bool) : Word := if b then 1 else 0

/-- Two Booleans in `S.result`: `zext_32({hi, lo})`, `lo` in bit 0 (R218). -/
def twoBitResult (hi lo : Bool) : Word := (BitVec.ofBool hi ++ BitVec.ofBool lo : BitVec (1 + 1)).zeroExtend 32

end Sys2Proof.Machine
end

