-- ==== Sys2Proof/Machine/Ops.lean ====
section
/-! DEFINITION. The shared operations: raising and completing (R16, R17), the environment's draws (R54), the register
transport (R53 to R58), the interrupt line (R143, R144), the deferred-work slot (R247) and the outputs (R15). -/

namespace Sys2Proof.Machine

/-! ### Raising, catching and completing -/

/-- How a piece of a rule ends: it reaches its end with a value, or it raises (R16). Either way the state is the one
the writes already made leave: nothing is rolled back. -/
inductive Res (α : Type) where
  | done (value : α) (s : State)
  | raised (e : Err) (s : State)
  deriving DecidableEq, Repr

/-- The state in which it ended. -/
def Res.state {α : Type} : Res α → State
  | .done _ s => s
  | .raised _ s => s

/-- The next step of a rule: it runs only when the one before did not raise (R16). -/
def Res.andThen {α β : Type} (r : Res α) (f : α → State → Res β) : Res β :=
  match r with
  | .done v s => f v s
  | .raised e s => .raised e s

/-- `try ... catch E: flag <- true` (R210): execution goes on, with the flag raised if the step raised. -/
def Res.caught {α : Type} (r : Res α) (flag : Bool) : Bool × State :=
  match r with
  | .done _ s => (flag, s)
  | .raised _ s => (true, s)

/-- The completion codes of R240. -/
def Err.code : Err → Byte
  | .transport => 1
  | .identityMismatch => 2
  | .interruptAttach => 3
  | .notReady => 4
  | .calibration => 5
  | .illegalCommand => 6

/-- An error's entry (R16, R252): `S.status <- code(E)` and `S.result <- 0`. No state is saved and no vector taken. -/
def State.raise (s : State) (e : Err) : State := { s with status := e.code, result := 0 }

/-- A command's normal end (R17): `S.status <- 0` and the value its rule names. -/
def State.complete (s : State) (value : Word) : State := { s with status := 0, result := value }

/-- The end of a command: completion or error status (R16, R17). -/
def Res.finish : Res Word → State
  | .done value s => s.complete value
  | .raised e s => s.raise e

/-- A command's rule whose result is named by no rule returns 0 (R17). -/
def Res.noResult (r : Res Unit) : Res Word := r.andThen fun _ s => .done 0 s

/-- The outcome of a command: the block always goes on (R254). -/
def commandEnds (r : Res Word) : Host.Outcome State Fault Refusal := .next r.finish

/-! ### Draws: the answers of the environment -/

/-- The answers after one free value has been drawn. -/
def Env.drawn (e : Env) : Env := { e with draws := e.draws + 1 }

/-- The event at this boundary: the choice among enabled events is free (R250). -/
def Env.event (e : Env) : Event :=
  match e.events with
  | x :: _ => x
  | [] => Config.freeEvent e.draws

/-- The answers left once the event is offered. -/
def Env.popEvent (e : Env) : Env :=
  match e.events with
  | _ :: rest => { e with events := rest }
  | [] => e.drawn

/-- Whether the next bus transaction is acknowledged (R54). -/
def Env.ack (e : Env) : Bool :=
  match e.acks with
  | a :: _ => a
  | [] => Config.freeAck e.draws

/-- The answers left once an acknowledgement is drawn. -/
def Env.popAck (e : Env) : Env :=
  match e.acks with
  | _ :: rest => { e with acks := rest }
  | [] => e.drawn

/-- The next byte a read returns (R54). -/
def Env.byte (e : Env) : Byte :=
  match e.bytes with
  | b :: _ => b
  | [] => Config.freeByte e.draws

/-- The answers left once a byte is drawn. -/
def Env.popByte (e : Env) : Env :=
  match e.bytes with
  | _ :: rest => { e with bytes := rest }
  | [] => e.drawn

/-- The next `n` bytes a read returns: `b[0..n-1]` (R53, R54). -/
def Env.take : Nat → Env → List Byte
  | 0, _ => []
  | n + 1, e => e.byte :: Env.take n e.popByte

/-- The answers left once `n` bytes are drawn. -/
def Env.popBytes : Nat → Env → Env
  | 0, e => e
  | n + 1, e => Env.popBytes n e.popByte

/-- The platform's answer to the next line request: granted with a handle, or refused (R143). -/
def Env.grant (e : Env) : Option Handle :=
  match e.grants with
  | g :: _ => g
  | [] => Config.freeGrant e.draws

/-- The answers left once an answer of the platform is drawn. -/
def Env.popGrant (e : Env) : Env :=
  match e.grants with
  | _ :: rest => { e with grants := rest }
  | [] => e.drawn

/-- The state after the event at this boundary is offered: the host's position advances by one (R21). -/
def State.dropEvent (s : State) : State := { s with env := s.env.popEvent }

/-- The state after one acknowledgement is drawn. -/
def State.dropAck (s : State) : State := { s with env := s.env.popAck }

/-- The state after `n` bytes are drawn. -/
def State.dropBytes (s : State) (n : Nat) : State := { s with env := s.env.popBytes n }

/-- The state after one answer of the platform is drawn. -/
def State.dropGrant (s : State) : State := { s with env := s.env.popGrant }

/-! ### Outputs -/

/-- The block emits one observable event (R15). -/
def State.emit (s : State) (e : Emitted) : State := { s with trace := s.trace ++ [e] }

/-- `Wait(ms)` records a delay (R15, R288). -/
def State.wait (s : State) (ms : Nat) : State := s.emit (.wait ms)

/-- `Publish(v)` delivers a value to the event sink (R15, R261). -/
def State.publish (s : State) (v : Int) : State := s.emit (.publish v)

/-- `Log(code)` records a logged, skipped failure (R262). -/
def State.log (s : State) (e : Err) : State := s.emit (.log e.code)

/-! ### The deferred-work slot (R247) -/

/-- `Schedule(ms)`: the slot is armed, and stays armed if it was; `ms` is not kept. -/
def State.schedule (s : State) (ms : Nat) : State := { s.emit (.schedule ms) with pending := true }

/-- `CancelAndWait()`: nothing is ever in flight, so it clears the slot (R66). -/
def State.cancelAndWait (s : State) : State := { s.emit .cancelAndWait with pending := false }

/-! ### The register transport -/

/-- `MemRead(addr, n)` (R53). A read changes no shadow. -/
def memRead (addr : Byte) (n : Nat) (s : State) : Res (List Byte) :=
  if n < 1 ∨ s.cfg.maxXfer < n then .raised .transport s
  else if s.env.ack then
    let s := s.dropAck
    let b := s.env.take n
    .done b ((s.dropBytes n).emit (.busRead addr n (some b)))
  else .raised .transport (s.dropAck.emit (.busRead addr n none))

/-- A shadow after a successful write: the written byte, if exactly one byte was written to its register (R56). -/
def shadowAfter (addr reg : Byte) (payload : List Byte) (old : Byte) : Byte :=
  match payload with
  | [b] => if addr = reg then b else old
  | _ => old

/-- `shadow_update(addr, n, v)` (R56). -/
def State.shadowUpdate (s : State) (addr : Byte) (payload : List Byte) : State :=
  { s with
    opf := shadowAfter addr s.cfg.addrOpf payload s.opf
    intsrs := shadowAfter addr s.cfg.addrIntsrs payload s.intsrs }

/-- The settle wait a successful write to the soft-reset register blocks for (R57). -/
def State.settle (s : State) (addr : Byte) : State :=
  if addr = s.cfg.addrSrst then s.wait s.cfg.srstSettleMs else s

/-- `MemWrite(addr, n, v)` (R55), `n` the length of the payload. -/
def memWrite (addr : Byte) (payload : List Byte) (s : State) : Res Unit :=
  if payload.length < 1 ∨ s.cfg.maxXfer < payload.length then .raised .transport s
  else if s.env.ack then
    .done () (((s.dropAck.emit (.busWrite addr payload true)).shadowUpdate addr payload).settle addr)
  else .raised .transport (s.dropAck.emit (.busWrite addr payload false))

/-- One-byte writes in order; the first that fails raises and the later ones are not issued (R182). -/
def memWrites : List (Byte × Byte) → State → Res Unit
  | [], s => .done () s
  | (addr, v) :: rest, s => (memWrite addr [v] s).andThen fun _ s => memWrites rest s

/-- `MemWrite(ADDR_OPF, 1, [v])`, the write-through of a computed OPF value (R58). -/
def writeOpf (v : Byte) (s : State) : Res Unit := memWrite s.cfg.addrOpf [v] s

/-- `MemWrite(ADDR_INTSRS, 1, [v])`, the write-through of a computed INTSRS value (R58). -/
def writeIntsrs (v : Byte) (s : State) : Res Unit := memWrite s.cfg.addrIntsrs [v] s

/-! ### The interrupt-line controller -/

/-- The properties every request carries: falling edge, oneshot, exclusive (R143). -/
def requestProps : IrqProps := { fallingEdge := true, oneshot := true, exclusive := true }

/-- `irq_attach()` (R143). -/
def irqAttach (s : State) : Res Unit :=
  match s.env.grant with
  | some h =>
    .done () { s.dropGrant.emit (.irqRequest s.cfg.irqLine requestProps (some h)) with
      irqHandle := some h, irqAttached := true }
  | none => .raised .interruptAttach (s.dropGrant.emit (.irqRequest s.cfg.irqLine requestProps none))

/-- `irq_detach()` (R144): the release always succeeds. -/
def irqDetach (s : State) : State :=
  { s.emit (.irqRelease s.irqHandle) with irqHandle := none, irqAttached := false }

/-- `if S.irq_attached: irq_detach()` (R140, R210, R275). -/
def detachIfAttached (s : State) : State := if s.irqAttached then irqDetach s else s

end Sys2Proof.Machine
end

