-- ==== Sys2Proof/Machine/Codec.lean ====
section
/-! DEFINITION. The codec (R120 to R125) and its four commands (R126 to R129). It raises nothing (R130). -/

namespace Sys2Proof.Machine

/-- `encode(8, value)` (R121): the pair `(hi, lo)`. -/
def encode8 (value : Int) : Byte × Byte :=
  let c := clamp value (-128) 127
  (0x00,
    if 0 ≤ c then BitVec.ofInt 8 c &&& 0x7F
    else 0x80 ||| (BitVec.ofInt 8 (128 - c.natAbs) &&& 0x7F))

/-- `encode(10, value)` (R122): the pair `(hi, lo)`, `hi = {s, m[8], 6'b000000}` and `lo = m[7:0]`. -/
def encode10 (value : Int) : Byte × Byte :=
  let c := clamp value (-512) 511
  let m : BitVec 9 := if 0 ≤ c then BitVec.ofInt 9 c else BitVec.ofInt 9 (512 - c.natAbs)
  ((BitVec.ofBool (decide (c < 0)) ++ m.extractLsb' 8 1 ++ 0#6 : BitVec (1 + 1 + 6)), m.extractLsb' 0 8)

/-- `encode(resolution, value)` (R120). -/
def encodeSample : Resolution → Int → Byte × Byte
  | .eight, v => encode8 v
  | .ten, v => encode10 v

/-- `decode(8, hi, lo)` (R123): `hi` is ignored. -/
def decode8 (_hi lo : Byte) : Int :=
  let m : Int := (lo &&& 0x7F).toNat
  if lo.getLsbD 7 then m - 128 else m

/-- `decode(10, hi, lo)` (R124): `hi[5:0]` is ignored. -/
def decode10 (hi lo : Byte) : Int :=
  let m : Int := (hi.extractLsb' 6 1 ++ lo : BitVec (1 + 8)).toNat
  if hi.getLsbD 7 then m - 512 else m

/-- `decode(resolution, hi, lo)` (R123, R124). -/
def decodeSample : Resolution → Byte → Byte → Int
  | .eight, hi, lo => decode8 hi lo
  | .ten, hi, lo => decode10 hi lo

/-- ENC.8 (R126). -/
def execEnc8 (value : Half) (s : State) : Host.Outcome State Fault Refusal :=
  commandEnds (.done (pairResult (encodeSample .eight (signedOperand value))) s)

/-- ENC.10 (R127). -/
def execEnc10 (value : Half) (s : State) : Host.Outcome State Fault Refusal :=
  commandEnds (.done (pairResult (encodeSample .ten (signedOperand value))) s)

/-- DEC.8 (R128). -/
def execDec8 (hi lo : Byte) (s : State) : Host.Outcome State Fault Refusal :=
  commandEnds (.done (signedResult (decodeSample .eight hi lo)) s)

/-- DEC.10 (R129). -/
def execDec10 (hi lo : Byte) (s : State) : Host.Outcome State Fault Refusal :=
  commandEnds (.done (signedResult (decodeSample .ten hi lo)) s)

end Sys2Proof.Machine
end

