-- ==== Sys2Proof/Machine/Classifier.lean ====
section
/-! DEFINITION. The classifier, the hysteresis threshold updater and the sample pass (R180 to R190), and the commands
of their family (R191 to R199). -/

namespace Sys2Proof.Machine

/-- `classify(raw, th, tl, pol)` (R180): the tests in the order listed, the first match wins. -/
def classify (raw th tl pol : Int) : Zone :=
  if 0 < pol then
    if th ≤ raw then .c else if raw ≤ tl then .a else .b
  else
    if raw ≤ tl then .c else if th ≤ raw then .a else .b

/-- `classify(raw, S.th, S.tl, S.pol)` (R190, R191). -/
def State.classify (s : State) (raw : Int) : Zone := Machine.classify raw s.th.toInt s.tl.toInt s.pol.toInt

/-- `type_for(z)` (R181). -/
def typeFor : Zone → IrqType
  | .b => .within
  | .a => .beside
  | .c => .beside

/-- The number programmed as the high threshold: tightened for "within", loosened for "beside" (R182). -/
def highOffset (c : Config) (t : IrqType) (th : Int) : Int :=
  match t with
  | .within => th - c.hyst
  | .beside => th + c.hyst

/-- The number programmed as the low threshold (R182). -/
def lowOffset (c : Config) (t : IrqType) (tl : Int) : Int :=
  match t with
  | .within => tl + c.hyst
  | .beside => tl - c.hyst

/-- The five one-byte writes of a threshold update, in order (R182). -/
def thresholdWrites (s : State) : List (Byte × Byte) :=
  let r := resolution s.cfg s.opf
  let t := irqType s.cfg s.intsrs
  let high := encodeSample r (highOffset s.cfg t s.th.toInt)
  let low := encodeSample r (lowOffset s.cfg t s.tl.toInt)
  [(s.cfg.addrHthH, high.1), (s.cfg.addrHthL, high.2), (s.cfg.addrLthH, low.1), (s.cfg.addrLthL, low.2),
   (s.cfg.addrLatch, s.cfg.latchClearValue)]

/-- `update_interrupt_thresholds()` (R182): it does not test the detection mode. -/
def updateThresholds (s : State) : Res Unit := memWrites (thresholdWrites s) s

/-- The type write that precedes a threshold update: only when the type changes (R145, R190). -/
def writeTypeFor (z : Zone) (s : State) : Res Unit :=
  if irqType s.cfg s.intsrs = typeFor z then .done () s
  else writeIntsrs (setField s.intsrs s.cfg.intsrsTypeMask (irqTypeCode s.cfg (typeFor z))) s

/-- `b[i]` of a sample read (R183). Beyond the bytes read no rule states it, and it is free (log 8). -/
def sampleByte (b : List Byte) (i : Nat) : Byte := b.getD i (Config.byteBeyondRead i)

/-- `read_sample()` (R183). -/
def readSample (s : State) : Res Int :=
  (memRead s.cfg.sampleAddr s.cfg.sampleLen s).andThen fun b s =>
    if sampleByte b s.cfg.statusIdx &&& s.cfg.drdyMask = 0 then .raised .notReady s
    else .done (decodeSample (resolution s.cfg s.opf) (sampleByte b s.cfg.hiIdx) (sampleByte b s.cfg.loIdx)) s

/-- The sink value (R184). -/
def sinkValue (c : Config) (raw : Int) (z : Zone) : Int := if c.rawPassthrough then raw else zoneCode z

/-- The pass's classification: `S.last_zone` is written and the value published, before any reprogramming (R190). -/
def classifySample (raw : Int) (s : State) : State :=
  { s with lastZone := s.classify raw }.publish (sinkValue s.cfg raw (s.classify raw))

/-- The pass's reprogramming, in interrupt mode: the type of the zone just written to `S.last_zone`, if it changes, and
then the thresholds (R190). -/
def reprogram (s : State) : Res Unit :=
  if det s.cfg s.intsrs = .interrupt then (writeTypeFor s.lastZone s).andThen fun _ s => updateThresholds s
  else .done () s

/-- The sample pass from a sample in hand (R190). -/
def passOnSample (raw : Int) (s : State) : Res Unit := reprogram (classifySample raw s)

/-- The `try` part of `sample_pass()` (R190). -/
def passBody (s : State) : Res Unit := (readSample s).andThen passOnSample

/-- `catch E: Log(code(E))` (R190, R254). -/
def logFailure : Res Unit → State
  | .done _ s => s
  | .raised e s => s.log e

/-- `if S.enabled and det(S.intsrs) = POLL: Schedule(S.delay)` (R190). -/
def rearm (s : State) : State :=
  if s.enabled = true ∧ det s.cfg s.intsrs = .polling then s.schedule s.delay.toNat else s

/-- `sample_pass()` (R190): it writes neither `S.status` nor `S.result` and never raises to a caller. -/
def samplePass (s : State) : State := rearm (logFailure (passBody s))

/-! ### Commands -/

/-- CLS (R191). -/
def execCls (raw : Half) (s : State) : Host.Outcome State Fault Refusal :=
  commandEnds (.done (zoneResult (s.classify (signedOperand raw))) s)

/-- UPDTHR (R192). -/
def execUpdthr (s : State) : Host.Outcome State Fault Refusal := commandEnds (updateThresholds s).noResult

/-- GETZONE (R193). -/
def execGetzone (s : State) : Host.Outcome State Fault Refusal := commandEnds (.done (zoneResult s.lastZone) s)

/-- SETTH (R194): no check against `S.tl`, no bus transaction. -/
def execSetth (v : Half) (s : State) : Host.Outcome State Fault Refusal := commandEnds (.done 0 { s with th := v })

/-- GETTH (R195). -/
def execGetth (s : State) : Host.Outcome State Fault Refusal := commandEnds (.done (s16Result s.th) s)

/-- SETTL (R196). -/
def execSettl (v : Half) (s : State) : Host.Outcome State Fault Refusal := commandEnds (.done 0 { s with tl := v })

/-- GETTL (R197). -/
def execGettl (s : State) : Host.Outcome State Fault Refusal := commandEnds (.done (s16Result s.tl) s)

/-- SETPOL (R198): any s16 value is stored. -/
def execSetpol (v : Half) (s : State) : Host.Outcome State Fault Refusal := commandEnds (.done 0 { s with pol := v })

/-- GETPOL (R199). -/
def execGetpol (s : State) : Host.Outcome State Fault Refusal := commandEnds (.done (s16Result s.pol) s)

end Sys2Proof.Machine
end

