-- ==== Sys2Proof/Machine/Lifecycle.lean ====
section
/-! DEFINITION. The operating-mode state machine, the detection modes and the lifecycle (R140 to R159). -/

namespace Sys2Proof.Machine

/-! ### Internal operations -/

/-- `set_mode(PowerDown)` (R140): the line is released before the write and stays released if the write fails. -/
def setModePd (s : State) : Res Unit :=
  let s := detachIfAttached s
  writeOpf (clearBit s.opf s.cfg.opfActive) s

/-- `set_mode(Measurement)` (R141): a failed attach leaves the OPF write standing. -/
def setModeMeas (s : State) : Res Unit :=
  (writeOpf (setBit (clearBit s.opf s.cfg.opfFuse) s.cfg.opfActive) s).andThen fun _ s =>
    if det s.cfg s.intsrs = .interrupt ∧ s.irqAttached = false then irqAttach s else .done () s

/-- `set_mode(FuseRomAccess)` (R142). -/
def setModeFuse (s : State) : Res Unit := writeOpf (setBit (setBit s.opf s.cfg.opfFuse) s.cfg.opfActive) s

/-- `set_detection_mode(interrupt)` (R145): type from `last_zone`, thresholds, then the detection bit. -/
def setDetInt (s : State) : Res Unit :=
  (writeTypeFor s.lastZone s).andThen fun _ s =>
  (updateThresholds s).andThen fun _ s =>
  writeIntsrs (setBit s.intsrs s.cfg.intsrsDet) s

/-- `set_detection_mode(polling)` (R146): the write is issued even when the bit is already clear. -/
def setDetPoll (s : State) : Res Unit := writeIntsrs (clearBit s.intsrs s.cfg.intsrsDet) s

/-- ENABLE's detection step: "set detection mode per current `intsrs_register`" (R150). -/
def setDetCurrent (s : State) : Res Unit :=
  if det s.cfg s.intsrs = .interrupt then setDetInt s else setDetPoll s

/-- ENABLE's delivery step: schedule in polling mode, else settle and force one pass (R150). -/
def startDelivery (s : State) : State :=
  if det s.cfg s.intsrs = .polling then s.schedule s.delay.toNat
  else samplePass (s.wait s.cfg.enableSettleMs)

/-- The transition of ENABLE on a block that is not enabled (R150): `S.enabled` is written last. -/
def enableTransition (s : State) : Res Unit :=
  (setDetCurrent s).andThen fun _ s =>
  (setModeMeas s).andThen fun _ s =>
  .done () { startDelivery s with enabled := true }

/-- The transition of DISABLE on an enabled block (R151). -/
def disableTransition (s : State) : Res Unit :=
  (setModePd s.cancelAndWait).andThen fun _ s => .done () { s with enabled := false }

/-- `max(ms, DELAY_MIN)` (R152). -/
def clampDelay (c : Config) (ms : Half) : Half := if ms < c.delayMin then c.delayMin else ms

/-- `set_delay`'s reschedule: on an enabled block in polling mode only (R152). -/
def reschedule (s : State) : State :=
  if s.enabled = true ∧ det s.cfg s.intsrs = .polling then s.cancelAndWait.schedule s.delay.toNat else s

/-- `set_delay(ms)` (R152). -/
def setDelay (ms : Half) (s : State) : State := reschedule { s with delay := clampDelay s.cfg ms }

/-! ### Mode commands -/

/-- MODE.PD (R147). -/
def execModePd (s : State) : Host.Outcome State Fault Refusal := commandEnds (setModePd s).noResult

/-- MODE.MEAS (R148). -/
def execModeMeas (s : State) : Host.Outcome State Fault Refusal := commandEnds (setModeMeas s).noResult

/-- MODE.FUSE (R149). -/
def execModeFuse (s : State) : Host.Outcome State Fault Refusal := commandEnds (setModeFuse s).noResult

/-! ### Detection-mode commands -/

/-- SETDET.POLL (R153). -/
def execSetdetPoll (s : State) : Host.Outcome State Fault Refusal := commandEnds (setDetPoll s).noResult

/-- SETDET.INT (R154). -/
def execSetdetInt (s : State) : Host.Outcome State Fault Refusal := commandEnds (setDetInt s).noResult

/-! ### Lifecycle commands -/

/-- ENABLE (R150): nothing at all on a block that is already enabled. -/
def execEnable (s : State) : Host.Outcome State Fault Refusal :=
  commandEnds (if s.enabled then .done 0 s else (enableTransition s).noResult)

/-- DISABLE (R151): nothing at all on a block that is already disabled. -/
def execDisable (s : State) : Host.Outcome State Fault Refusal :=
  commandEnds (if s.enabled then (disableTransition s).noResult else .done 0 s)

/-- SETDLY (R152). -/
def execSetdly (ms : Half) (s : State) : Host.Outcome State Fault Refusal := commandEnds (.done 0 (setDelay ms s))

/-- GETEN (R155). -/
def execGeten (s : State) : Host.Outcome State Fault Refusal := commandEnds (.done (boolResult s.enabled) s)

/-- GETDLY (R156). -/
def execGetdly (s : State) : Host.Outcome State Fault Refusal := commandEnds (.done (u16Result s.delay) s)

/-- SETDBG (R157). -/
def execSetdbg (b : Bool) (s : State) : Host.Outcome State Fault Refusal :=
  commandEnds (.done 0 { s with debug := b })

/-- GETDBG (R158). -/
def execGetdbg (s : State) : Host.Outcome State Fault Refusal := commandEnds (.done (boolResult s.debug) s)

end Sys2Proof.Machine
end

