-- ==== Sys2Proof/Machine/Calibration.lean ====
section
/-! DEFINITION. Calibration: sample averaging and the reference learner (R210 to R213) and its commands (R214 to
R220). -/

namespace Sys2Proof.Machine

/-- Steps 2 and 3 of `calibrate()` (R210): force polling at the fixed sensitivity, force power-down, then 40 Hz in
measurement mode, and wait before the first read. -/
def calPrepare (s : State) : Res Unit :=
  (writeIntsrs (setField (clearBit s.intsrs s.cfg.intsrsDet) s.cfg.intsrsSensMask s.cfg.calSens) s).andThen fun _ s =>
  (setModePd s).andThen fun _ s =>
  (writeOpf (setBit (clearBit (setField s.opf s.cfg.opfFreqMask s.cfg.freq40Hz) s.cfg.opfFuse) s.cfg.opfActive)
    s).andThen fun _ s =>
  .done () (s.wait s.cfg.calFirstWaitMs)

/-- The samples of step 4 after the first: each is preceded by its wait (R210). -/
def moreSamples : Nat → State → Res (List Int)
  | 0, s => .done [] s
  | n + 1, s =>
    (readSample (s.wait s.cfg.calSampleWaitMs)).andThen fun v s =>
    (moreSamples n s).andThen fun vs s => .done (v :: vs) s

/-- Step 4 of `calibrate()` (R210): `n` consecutive samples; the first that fails stops the sampling. -/
def takeSamples : Nat → State → Res (List Int)
  | 0, s => .done [] s
  | n + 1, s =>
    (readSample s).andThen fun v s =>
    (moreSamples n s).andThen fun vs s => .done (v :: vs) s

/-- Step 5 of `calibrate()` (R211): the mean of the samples, rounded toward zero, as s16. With no samples at all no
rule states a mean, and it is free (log 10). -/
def meanOf (samples : List Int) (n : Nat) : Half :=
  if n = 0 then Config.meanOfNone else toS16 (truncDiv samples.sum n)

/-- Steps 2 to 5 of `calibrate()` (R210); what raises here goes to the restore with `S.cal_ref` as it was (R212). -/
def calMeasure (s : State) : Res Unit :=
  (calPrepare s).andThen fun _ s =>
  (takeSamples s.cfg.calN s).andThen fun vs s =>
  .done () { s with calRef := meanOf vs s.cfg.calN }

/-- Step 6's reattachment, if the line had been attached (R210). -/
def reattach (was : Bool) (s : State) : Res Unit := if was then irqAttach s else .done () s

/-- Step 6's OPF value: the saved frequency and resolution, in measurement mode (R210). -/
def restoredOpf (c : Config) (now saved : Byte) : Byte :=
  setBit (clearBit (setField (setField now c.opfFreqMask (field saved c.opfFreqMask)) c.opfResMask
    (field saved c.opfResMask)) c.opfFuse) c.opfActive

/-- Step 6's return to PowerDown, if the block is not enabled (R210). -/
def powerDownIfDisabled (s : State) : Res Unit := if s.enabled then .done () s else setModePd s

/-- Step 6 of `calibrate()`, the restore (R210): every step is attempted even when an earlier one failed. `saved` is
the state when calibration began, `failed` what it has failed so far. -/
def calRestore (saved : State) (failed : Bool) (s : State) : Bool × State :=
  let (failed, s) := (writeIntsrs saved.intsrs s).caught failed
  let (failed, s) := (reattach saved.irqAttached s).caught failed
  let (failed, s) := (writeOpf (restoredOpf s.cfg s.opf saved.opf) s).caught failed
  (powerDownIfDisabled s).caught failed

/-- `calibrate()` (R210): `true` when it failed, with the state it leaves. Step 1 detaches the line. -/
def calibrate (s : State) : Bool × State :=
  let (failed, s1) := (calMeasure (detachIfAttached s)).caught false
  calRestore s failed s1

/-- The common body of CAL, CALPASS.1 and CALPASS.2 (R214 to R216): `mark` sets the pass's done flag. -/
def calibrationCommand (mark : State → State) (s : State) : Res Word :=
  let (failed, s) := calibrate s
  if failed then .raised .calibration s
  else .done (s16Result (mark s).calRef) (mark s)

/-- `S.th <- S.cal_ref - CAL_TOL` (R219, R220). -/
def highFromReference (s : State) : State := { s with th := toS16 (s.calRef.toInt - s.cfg.calTol) }

/-- `S.tl <- S.cal_ref + CAL_TOL` (R219, R220). -/
def lowFromReference (s : State) : State := { s with tl := toS16 (s.calRef.toInt + s.cfg.calTol) }

/-! ### Commands -/

/-- CAL (R214). -/
def execCal (s : State) : Host.Outcome State Fault Refusal := commandEnds (calibrationCommand id s)

/-- CALPASS.1 (R215): sets `S.cal_high_done` on success. -/
def execCalpass1 (s : State) : Host.Outcome State Fault Refusal :=
  commandEnds (calibrationCommand (fun s => { s with calHighDone := true }) s)

/-- CALPASS.2 (R216): sets `S.cal_low_done` on success. -/
def execCalpass2 (s : State) : Host.Outcome State Fault Refusal :=
  commandEnds (calibrationCommand (fun s => { s with calLowDone := true }) s)

/-- GETREF (R217). -/
def execGetref (s : State) : Host.Outcome State Fault Refusal := commandEnds (.done (s16Result s.calRef) s)

/-- GETCALST (R218): bit 0 is the high flag, bit 1 the low flag. -/
def execGetcalst (s : State) : Host.Outcome State Fault Refusal :=
  commandEnds (.done (twoBitResult s.calLowDone s.calHighDone) s)

/-- CALAPPLY.1 (R219): pass 1 is the zone-C position. -/
def execCalapply1 (s : State) : Host.Outcome State Fault Refusal :=
  commandEnds (.done 0 (if 0 < s.pol.toInt then highFromReference s else lowFromReference s))

/-- CALAPPLY.2 (R220): pass 2 is the zone-A position. -/
def execCalapply2 (s : State) : Host.Outcome State Fault Refusal :=
  commandEnds (.done 0 (if 0 < s.pol.toInt then lowFromReference s else highFromReference s))

end Sys2Proof.Machine
end

