-- ==== Sys2Proof/Machine/Transport.lean ====
section
/-! DEFINITION. The transport passthrough and diagnostic commands (R101 to R105). -/

namespace Sys2Proof.Machine

/-- The byte of a one-byte read, `b[0]` (R101, R103). -/
def readByte (addr : Byte) (s : State) : Res Byte :=
  (memRead addr 1 s).andThen fun b s => .done (b.getD 0 (Config.byteBeyondRead 0)) s

/-- REGRD (R101): a read changes no shadow. -/
def execRegrd (addr : Byte) (s : State) : Host.Outcome State Fault Refusal :=
  commandEnds ((readByte addr s).andThen fun b s => .done (byteResult b) s)

/-- REGWR (R102): nothing but the write. -/
def execRegwr (addr value : Byte) (s : State) : Host.Outcome State Fault Refusal :=
  commandEnds (memWrite addr [value] s).noResult

/-- CHKID (R103): a mismatch is no error here. -/
def execChkid (s : State) : Host.Outcome State Fault Refusal :=
  commandEnds ((readByte s.cfg.addrId s).andThen fun b s => .done (boolResult (b == s.cfg.idValue)) s)

/-- GETSHADOW.OPF (R104). -/
def execGetshadowOpf (s : State) : Host.Outcome State Fault Refusal := commandEnds (.done (byteResult s.opf) s)

/-- GETSHADOW.INTSRS (R105). -/
def execGetshadowIntsrs (s : State) : Host.Outcome State Fault Refusal :=
  commandEnds (.done (byteResult s.intsrs) s)

end Sys2Proof.Machine
end

