-- ==== Sys2Proof/Machine/Dispatch.lean ====
section
/-! DEFINITION. The dispatch: one arm per command, each one call of its meaning (R78). -/

namespace Sys2Proof.Machine

def exec (i : Instr) (s : State) : Host.Outcome State Fault Refusal :=
  match i with
  | .enc8 value => Sys2Proof.Machine.execEnc8 value s
  | .enc10 value => Sys2Proof.Machine.execEnc10 value s
  | .dec8 hi lo => Sys2Proof.Machine.execDec8 hi lo s
  | .dec10 hi lo => Sys2Proof.Machine.execDec10 hi lo s
  | .cls raw => Sys2Proof.Machine.execCls raw s
  | .updthr => Sys2Proof.Machine.execUpdthr s
  | .getzone => Sys2Proof.Machine.execGetzone s
  | .modePd => Sys2Proof.Machine.execModePd s
  | .modeMeas => Sys2Proof.Machine.execModeMeas s
  | .modeFuse => Sys2Proof.Machine.execModeFuse s
  | .setdetPoll => Sys2Proof.Machine.execSetdetPoll s
  | .setdetInt => Sys2Proof.Machine.execSetdetInt s
  | .enable => Sys2Proof.Machine.execEnable s
  | .disable => Sys2Proof.Machine.execDisable s
  | .setdly ms => Sys2Proof.Machine.execSetdly ms s
  | .geten => Sys2Proof.Machine.execGeten s
  | .getdly => Sys2Proof.Machine.execGetdly s
  | .setdbg b => Sys2Proof.Machine.execSetdbg b s
  | .getdbg => Sys2Proof.Machine.execGetdbg s
  | .setth v => Sys2Proof.Machine.execSetth v s
  | .getth => Sys2Proof.Machine.execGetth s
  | .settl v => Sys2Proof.Machine.execSettl v s
  | .gettl => Sys2Proof.Machine.execGettl s
  | .setpol v => Sys2Proof.Machine.execSetpol v s
  | .getpol => Sys2Proof.Machine.execGetpol s
  | .cal => Sys2Proof.Machine.execCal s
  | .calpass1 => Sys2Proof.Machine.execCalpass1 s
  | .calpass2 => Sys2Proof.Machine.execCalpass2 s
  | .getref => Sys2Proof.Machine.execGetref s
  | .getcalst => Sys2Proof.Machine.execGetcalst s
  | .calapply1 => Sys2Proof.Machine.execCalapply1 s
  | .calapply2 => Sys2Proof.Machine.execCalapply2 s
  | .regrd addr => Sys2Proof.Machine.execRegrd addr s
  | .regwr addr value => Sys2Proof.Machine.execRegwr addr value s
  | .chkid => Sys2Proof.Machine.execChkid s
  | .getshadowOpf => Sys2Proof.Machine.execGetshadowOpf s
  | .getshadowIntsrs => Sys2Proof.Machine.execGetshadowIntsrs s

end Sys2Proof.Machine
end

