-- ==== Sys2Proof/Machine/Events.lean ====
section
/-! DEFINITION. The events of the block (R247, R248, R250) and of its lifecycle (R271 to R275), one atomic event at a
boundary. -/

namespace Sys2Proof.Machine

/-- A word that matches no row of the opcode map: `IllegalCommand`, and only `S.status` and `S.result` change (R246). -/
def illegalCommand (s : State) : Host.Outcome State Fault Refusal := commandEnds (.raised .illegalCommand s)

/-- One command word, decoded and executed to completion (R70, R78). -/
def runCommand (w : Word) (s : State) : Host.Outcome State Fault Refusal :=
  match decode w with
  | .ok i => exec i s
  | .error _ => illegalCommand s

/-- WORKER_RUN, where it is enabled: the slot is cleared, then one sample pass (R247). -/
def workerRun (s : State) : State := samplePass { s with pending := false }

/-- IRQ_EDGE, where it is enabled: `Schedule(0)` and nothing else (R248). -/
def irqEdge (s : State) : State := s.schedule 0

/-- INIT's defaults (R272): every element at its reset value, not yet alive. -/
def initDefaults (s : State) : State :=
  { s with
    alive := false
    opf := s.cfg.opfReset
    intsrs := s.cfg.intsrsReset
    enabled := false
    delay := s.cfg.delayReset
    debug := false
    lastZone := s.cfg.lastZoneReset
    th := s.cfg.thReset
    tl := s.cfg.tlReset
    calRef := s.cfg.calRefReset
    pol := s.cfg.polReset
    calHighDone := false
    calLowDone := false
    irqAttached := false
    irqHandle := none
    pending := false
    result := 0
    status := 0 }

/-- The shadows re-seeded to the device's values after the soft reset (R272). -/
def reseedShadows (s : State) : State := { s with opf := s.cfg.opfReset, intsrs := s.cfg.intsrsReset }

/-- INIT's identity check (R272, R273). -/
def checkIdentity (s : State) : Res Unit :=
  (readByte s.cfg.addrId s).andThen fun b s =>
    if b = s.cfg.idValue then .done () s else .raised .identityMismatch s

/-- INIT from the soft-reset write on (R272). -/
def initSequence (s : State) : Res Unit :=
  (memWrite s.cfg.addrSrst [s.cfg.srstValue] s).andThen fun _ s =>
  (checkIdentity (reseedShadows s)).andThen fun _ s =>
  (setModePd s).andThen fun _ s =>
  .done () { s with alive := true }

/-- INIT (R272). Where it raises, `alive` stays false (R273), and the error's code is in `S.status` as `raise` says
(R16). DEDUCED, unsafe (log 7): R16 speaks of a command. -/
def initEvent (s : State) : State :=
  match initSequence (initDefaults s) with
  | .done _ s => s
  | .raised e s => s.raise e

/-- "All state, including calibration, is lost" (R275, R256): every element takes a free value, of which only the bounds
hold that the rules state for every state (I1 and I2 of R39, R34, R240). DESIGN CHOICE, safe (log 17). -/
def State.lose (s : State) : State :=
  { s with
    opf := (Config.lostState s.env.draws).opf
    intsrs := (Config.lostState s.env.draws).intsrs
    enabled := (Config.lostState s.env.draws).enabled
    delay := clampDelay s.cfg (Config.lostState s.env.draws).delay
    debug := (Config.lostState s.env.draws).debug
    lastZone := (Config.lostState s.env.draws).lastZone
    th := (Config.lostState s.env.draws).th
    tl := (Config.lostState s.env.draws).tl
    calRef := (Config.lostState s.env.draws).calRef.signExtend 16
    pol := (Config.lostState s.env.draws).pol
    calHighDone := (Config.lostState s.env.draws).calHighDone
    calLowDone := (Config.lostState s.env.draws).calLowDone
    irqAttached := false
    irqHandle := none
    pending := false
    result := (Config.lostState s.env.draws).result
    status := BitVec.ofNat 8 (Config.lostState s.env.draws).status.val
    env := s.env.drawn }

/-- DETACH (R275): the slot is drained, the line released, the life of the block ended, and its state lost. -/
def detachEvent (s : State) : State := { (detachIfAttached s.cancelAndWait).lose with alive := false }

/-- One event of a block that is alive (R250). An event that is not enabled is not taken and changes nothing: an edge
with no line attached is lost (R248), a worker run needs an armed slot (R247), nothing resets a block that is alive
(R271). DEDUCED, safe (log 11): it uses up its place in the list of events. -/
def takeEvent (e : Event) (s : State) : Host.Outcome State Fault Refusal :=
  match e with
  | .command w => runCommand w s
  | .workerRun => .next (if s.pending then workerRun s else s)
  | .irqEdge => .next (if s.irqAttached then irqEdge s else s)
  | .init => .next s
  | .detach => .next (detachEvent s)

/-- One event offered to a block that is not alive (R38, R273, R274): INIT attaches it again, a command is not taken,
and for the rest it has no step (log 6). -/
def offerToDead (e : Event) (s : State) : Host.Outcome State Fault Refusal :=
  match e with
  | .init => .next (initEvent s)
  | .command _ => .refused .commandNotTaken
  | .workerRun => .fault .stuckNotAlive
  | .irqEdge => .fault .stuckNotAlive
  | .detach => .fault .stuckNotAlive

/-- One event boundary. -/
def atBoundary (e : Event) (s : State) : Host.Outcome State Fault Refusal :=
  if s.alive then takeEvent e s else offerToDead e s

/-- The state in which a command word is the next event of a block that is alive: the host presents it on the command
port (R70). -/
def State.presentCommand (s : State) (w : Word) : State :=
  { s with alive := true, env := { s.env with events := .command w :: s.env.events } }

end Sys2Proof.Machine
end

