-- ==== Sys2Proof/Machine/Step.lean ====
section
/-! DEFINITION. One step: the event at the boundary is taken from the environment's list and run to completion (R250).
The block has no program counter and fetches nothing (R21): a command word is presented to it. No time passes in a step
and no fairness is built in (log 15). -/

namespace Sys2Proof.Machine

/-- One step: one atomic event. -/
def step (s : State) : Host.Outcome State Fault Refusal := atBoundary s.env.event s.dropEvent

/-- The host presents the command word of an instruction of `nbits` bits as the next event (R70). -/
def State.withFetchWord (s : State) (nbits w : Nat) : State := s.presentCommand (BitVec.ofNat 32 (w % 2 ^ nbits))

end Sys2Proof.Machine
end

