-- ==== Sys2Proof/WellFormed.lean ====
section
/-! DEFINITION. The checks. Every term of `Instr` is well formed, because its operands have the width of their field;
an operand can be out of range only in an assembly line (R81), and a parameter only in a configuration (R9). -/

namespace Sys2Proof

/-! ### Operand ranges (R81: an operand outside its field's range is an assembly error) -/

/-- A signed operand is in −32768 to 32767 (R76). -/
def fitsS16 (v : Int) : Bool := decide (-32768 ≤ v ∧ v ≤ 32767)

/-- An unsigned operand is in 0 to 65535 (R76). -/
def fitsU16 (v : Int) : Bool := decide (0 ≤ v ∧ v ≤ 65535)

/-- A byte or a register address is in 0 to 255 (R76). -/
def fitsU8 (v : Int) : Bool := decide (0 ≤ v ∧ v ≤ 255)

/-- SETDBG takes `0` or `1` (R81). -/
def fitsBit (v : Int) : Bool := decide (v = 0 ∨ v = 1)

/-! ### A well-formed configuration (R8, R9) -/

/-- A mask of exactly one bit (R8). -/
def oneBitMask (m : Byte) : Bool := [0x01, 0x02, 0x04, 0x08, 0x10, 0x20, 0x40, 0x80].contains m

/-- Two disjoint bit sets of an 8-bit register (R9). -/
def disjointMasks (m n : Byte) : Bool := decide (m &&& n = 0)

/-- An encoding that lies inside its field's mask (R9). -/
def insideMask (e m : Byte) : Bool := decide (e &&& m = e)

namespace Config

/-- R8: the three one-bit masks have one bit. -/
def wfOneBit (c : Config) : Bool :=
  oneBitMask c.opfActive && oneBitMask c.opfFuse && oneBitMask c.intsrsDet

/-- R9: the four OPF masks are pairwise disjoint. -/
def wfOpfMasks (c : Config) : Bool :=
  disjointMasks c.opfActive c.opfFuse && disjointMasks c.opfActive c.opfResMask &&
  disjointMasks c.opfActive c.opfFreqMask && disjointMasks c.opfFuse c.opfResMask &&
  disjointMasks c.opfFuse c.opfFreqMask && disjointMasks c.opfResMask c.opfFreqMask

/-- R9: the three INTSRS masks are pairwise disjoint. -/
def wfIntsrsMasks (c : Config) : Bool :=
  disjointMasks c.intsrsDet c.intsrsTypeMask && disjointMasks c.intsrsDet c.intsrsSensMask &&
  disjointMasks c.intsrsTypeMask c.intsrsSensMask

/-- R9: each encoding lies inside its field's mask. -/
def wfInside (c : Config) : Bool :=
  insideMask c.res8 c.opfResMask && insideMask c.res10 c.opfResMask &&
  insideMask c.freq40Hz c.opfFreqMask && insideMask c.typeWithin c.intsrsTypeMask &&
  insideMask c.typeBeside c.intsrsTypeMask && insideMask c.calSens c.intsrsSensMask

/-- R9: the two encodings of a field differ. -/
def wfDistinctCodes (c : Config) : Bool :=
  decide (c.res8 ≠ c.res10) && decide (c.typeWithin ≠ c.typeBeside)

/-- The eight register addresses R9 asks to be distinct. -/
def writeAddresses (c : Config) : List Byte :=
  [c.addrOpf, c.addrIntsrs, c.addrSrst, c.addrHthH, c.addrHthL, c.addrLthH, c.addrLthL, c.addrLatch]

/-- R9: the register addresses are pairwise distinct. -/
def wfAddresses (c : Config) : Bool := decide c.writeAddresses.Nodup

/-- R8: `1 <= SAMPLE_LEN <= MAX_XFER`. -/
def wfSampleLen (c : Config) : Bool := decide (1 ≤ c.sampleLen ∧ c.sampleLen ≤ c.maxXfer)

/-- The byte indices fall inside the sample read. DEDUCED (log 8): R8 calls them indices in the sample read. -/
def wfSampleIdx (c : Config) : Bool :=
  decide (c.statusIdx < c.sampleLen ∧ c.hiIdx < c.sampleLen ∧ c.loIdx < c.sampleLen)

/-- R8: `DELAY_RESET >= DELAY_MIN`. -/
def wfDelay (c : Config) : Bool := decide (c.delayMin ≤ c.delayReset)

/-- A calibration takes at least one sample. DEDUCED (log 10): R211 divides by `CAL_N`. -/
def wfCalN (c : Config) : Bool := decide (1 ≤ c.calN)

/-- R8 and R9: a well-formed configuration. -/
def wf (c : Config) : Bool :=
  c.wfOneBit && c.wfOpfMasks && c.wfIntsrsMasks && c.wfInside && c.wfDistinctCodes &&
  c.wfAddresses && c.wfSampleLen && c.wfSampleIdx && c.wfDelay && c.wfCalN

end Config

end Sys2Proof
end

