-- ==== Sys2Proof/Machine/Assembler.lean ====
section
/-! DEFINITION. The assembly syntax: reading a line (R81), assembling it with its range checks (R81), and the
pseudo-instructions (R82). Text is a list of characters. DESIGN CHOICE, unsafe (log 16): spaces, case and signs. -/

namespace Sys2Proof.Machine

/-! ### Reading a line -/

/-- The text without the spaces around it. -/
def trimSpaces (cs : List Char) : List Char := ((cs.dropWhile (· == ' ')).reverse.dropWhile (· == ' ')).reverse

/-- The parts between commas (R81). -/
def splitCommas : List Char → List (List Char)
  | [] => [[]]
  | c :: cs =>
    if c == ',' then [] :: splitCommas cs
    else match splitCommas cs with
      | [] => [[c]]
      | part :: parts => (c :: part) :: parts

/-- A digit of base 10 or 16. -/
def digitValue (base : Nat) (c : Char) : Option Nat :=
  let n := c.toNat
  let v := if 48 ≤ n ∧ n ≤ 57 then n - 48 else if 65 ≤ n ∧ n ≤ 70 then n - 55 else if 97 ≤ n ∧ n ≤ 102 then n - 87
    else base
  if v < base then some v else none

/-- The digits of a number, most significant first. -/
def readDigits (base : Nat) : Nat → List Char → Option Nat
  | acc, [] => some acc
  | acc, c :: cs => (digitValue base c).bind fun d => readDigits base (acc * base + d) cs

/-- A decimal or 0x-prefixed hexadecimal number (R81). That leading zeros are accepted is the model's choice (log 16). -/
def readNat : List Char → Option Nat
  | [] => none
  | ['0', 'x'] => none
  | '0' :: 'x' :: cs => readDigits 16 0 cs
  | cs => readDigits 10 0 cs

/-- An integer, with or without a minus sign (R81). -/
def readInt : List Char → Option Int
  | '-' :: cs => (readNat cs).map fun n => -(n : Int)
  | cs => (readNat cs).map fun n => (n : Int)

/-- An operand: an integer, or else a name of R82. -/
def readOperand (cs : List Char) : AsmOperand :=
  match readInt cs with
  | some v => .number v
  | none => .name cs

/-- "the mnemonic, a space, then the operands separated by commas" (R81). -/
def readLine (text : List Char) : AsmLine :=
  let cs := trimSpaces text
  let mnemonic := cs.takeWhile (· != ' ')
  let rest := trimSpaces (cs.drop mnemonic.length)
  { mnemonic := mnemonic
    operands := if rest.isEmpty then [] else (splitCommas rest).map fun p => readOperand (trimSpaces p) }

/-! ### Operand shapes -/

/-- No operands (R81). -/
def asmNone (ops : List AsmOperand) (i : Instr) : Option Instr := if ops.isEmpty then some i else none

/-- One signed operand in range (R81). -/
def asmS16 (ops : List AsmOperand) (i : Half → Instr) : Option Instr :=
  match ops with
  | [.number v] => if fitsS16 v then some (i (BitVec.ofInt 16 v)) else none
  | _ => none

/-- One unsigned operand in range (R81). -/
def asmU16 (ops : List AsmOperand) (i : Half → Instr) : Option Instr :=
  match ops with
  | [.number v] => if fitsU16 v then some (i (BitVec.ofInt 16 v)) else none
  | _ => none

/-- One byte operand in range (R81). -/
def asmU8 (ops : List AsmOperand) (i : Byte → Instr) : Option Instr :=
  match ops with
  | [.number v] => if fitsU8 v then some (i (BitVec.ofInt 8 v)) else none
  | _ => none

/-- Two byte operands in range (R81). -/
def asmU8U8 (ops : List AsmOperand) (i : Byte → Byte → Instr) : Option Instr :=
  match ops with
  | [.number u, .number v] => if fitsU8 u && fitsU8 v then some (i (BitVec.ofInt 8 u) (BitVec.ofInt 8 v)) else none
  | _ => none

/-- `0` or `1` (R81, R82). The rules write these two as digits; that any spelling of the number is accepted (`0x1`, `01`,
`-0`) is the model's choice (log 16). -/
def asmBit (ops : List AsmOperand) (i : Bool → Instr) : Option Instr :=
  match ops with
  | [.number v] => if fitsBit v then some (i (decide (v = 1))) else none
  | _ => none

/-- One of the names a pseudo-instruction takes (R82). -/
def asmName (ops : List AsmOperand) (names : List (List Char × Instr)) : Option Instr :=
  match ops with
  | [.name n] => (names.find? fun r => r.1 == n).map Prod.snd
  | _ => none

/-- One of the numbers a pseudo-instruction takes (R82). The rule writes them as digits; that any spelling of the number is
accepted (`0x2`, `02`) is the model's choice (log 16). -/
def asmChoice (ops : List AsmOperand) (choices : List (Int × Instr)) : Option Instr :=
  match ops with
  | [.number v] => (choices.find? fun r => r.1 == v).map Prod.snd
  | _ => none

/-! ### Assembling -/

/-- The core instructions, by the mnemonics of R78. -/
def assembleCore (m : List Char) (ops : List AsmOperand) : Option Instr :=
  if m = "ENC.8".toList then asmS16 ops .enc8
  else if m = "ENC.10".toList then asmS16 ops .enc10
  else if m = "DEC.8".toList then asmU8U8 ops .dec8
  else if m = "DEC.10".toList then asmU8U8 ops .dec10
  else if m = "CLS".toList then asmS16 ops .cls
  else if m = "UPDTHR".toList then asmNone ops .updthr
  else if m = "GETZONE".toList then asmNone ops .getzone
  else if m = "MODE.PD".toList then asmNone ops .modePd
  else if m = "MODE.MEAS".toList then asmNone ops .modeMeas
  else if m = "MODE.FUSE".toList then asmNone ops .modeFuse
  else if m = "SETDET.POLL".toList then asmNone ops .setdetPoll
  else if m = "SETDET.INT".toList then asmNone ops .setdetInt
  else if m = "ENABLE".toList then asmNone ops .enable
  else if m = "DISABLE".toList then asmNone ops .disable
  else if m = "SETDLY".toList then asmU16 ops .setdly
  else if m = "GETEN".toList then asmNone ops .geten
  else if m = "GETDLY".toList then asmNone ops .getdly
  else if m = "SETDBG".toList then asmBit ops .setdbg
  else if m = "GETDBG".toList then asmNone ops .getdbg
  else if m = "SETTH".toList then asmS16 ops .setth
  else if m = "GETTH".toList then asmNone ops .getth
  else if m = "SETTL".toList then asmS16 ops .settl
  else if m = "GETTL".toList then asmNone ops .gettl
  else if m = "SETPOL".toList then asmS16 ops .setpol
  else if m = "GETPOL".toList then asmNone ops .getpol
  else if m = "CAL".toList then asmNone ops .cal
  else if m = "CALPASS.1".toList then asmNone ops .calpass1
  else if m = "CALPASS.2".toList then asmNone ops .calpass2
  else if m = "GETREF".toList then asmNone ops .getref
  else if m = "GETCALST".toList then asmNone ops .getcalst
  else if m = "CALAPPLY.1".toList then asmNone ops .calapply1
  else if m = "CALAPPLY.2".toList then asmNone ops .calapply2
  else if m = "REGRD".toList then asmU8 ops .regrd
  else if m = "REGWR".toList then asmU8U8 ops .regwr
  else if m = "CHKID".toList then asmNone ops .chkid
  else if m = "GETSHADOW.OPF".toList then asmNone ops .getshadowOpf
  else if m = "GETSHADOW.INTSRS".toList then asmNone ops .getshadowIntsrs
  else none

/-- The pseudo-instructions, with their expansions (R82). -/
def assemblePseudo (m : List Char) (ops : List AsmOperand) : Option Instr :=
  if m = "SETEN".toList then asmBit ops fun b => if b then .enable else .disable
  else if m = "SETMODE".toList then
    asmName ops [("PowerDown".toList, .modePd), ("Measurement".toList, .modeMeas), ("FuseRomAccess".toList, .modeFuse)]
  else if m = "SETDET".toList then asmName ops [("polling".toList, .setdetPoll), ("interrupt".toList, .setdetInt)]
  else if m = "CALPASS".toList then asmChoice ops [(1, .calpass1), (2, .calpass2)]
  else none

/-- The command of a line, or none where the line is an assembly error (R81, R82). -/
def assemble (line : AsmLine) : Option Instr :=
  (assembleCore line.mnemonic line.operands).or (assemblePseudo line.mnemonic line.operands)

/-- The word of a line of text (R81). -/
def assembleText (text : List Char) : Option Word := (assemble (readLine text)).map encode

end Sys2Proof.Machine
end

