-- ==== Sys2Proof/Safety.lean ====
section
/-! DEFINITION. What counts as a legal state and a safe run, and what the statements speak of: readings of a trace, the
accesses of each command (R52), and the steps of a calibration (R210) and of ENABLE (R150) as events and states. -/

namespace Sys2Proof.Machine

/-- The legal states: the invariants R39 names, with the ranges R34 and R240 give and R38's "takes no event at all". -/
structure Inv (s : State) : Prop where
  /-- the configuration meets R8 and R9 -/
  cfgWf : s.cfg.wf = true
  /-- the reset value of the reference is a value a calibration could give (R8: 0) -/
  refReset : -512 ≤ s.cfg.calRefReset.toInt ∧ s.cfg.calRefReset.toInt ≤ 511
  /-- I1 -/
  delayFloor : s.cfg.delayMin ≤ s.delay
  /-- I2 -/
  attachedIff : s.irqAttached = true ↔ s.irqHandle ≠ none
  /-- every mean lies in [−512, 511] (R34) -/
  refRange : -512 ≤ s.calRef.toInt ∧ s.calRef.toInt ≤ 511
  /-- codes 7 to 255 are never written (R240) -/
  statusKnown : s.status ≤ 6
  /-- a block that is not alive owes no pass and holds no line (R270, R275) -/
  deadIdle : s.alive = false → s.pending = false ∧ s.irqAttached = false

/-- What a register's shadow must hold after the given events: the last byte that a one-byte write to `reg` put there
and the bus acknowledged (R39, I3), or what it held before. -/
def lastWritten (reg : Byte) : Byte → List Emitted → Byte
  | old, [] => old
  | old, .busWrite addr [b] true :: rest => lastWritten reg (if addr = reg then b else old) rest
  | old, _ :: rest => lastWritten reg old rest

/-- The values delivered to the event sink, in order (R261). -/
def published : List Emitted → List Int
  | [] => []
  | .publish v :: rest => v :: published rest
  | _ :: rest => published rest

/-- The register addresses that were written to, in order. -/
def writtenAddresses : List Emitted → List Byte
  | [] => []
  | .busWrite addr _ _ :: rest => addr :: writtenAddresses rest
  | _ :: rest => writtenAddresses rest

/-- The register addresses at which a read began, in order. -/
def readAddresses : List Emitted → List Byte
  | [] => []
  | .busRead addr _ _ :: rest => addr :: readAddresses rest
  | _ :: rest => readAddresses rest

/-- The events of one-byte writes that were all acknowledged. -/
def acknowledged (ws : List (Byte × Byte)) : List Emitted := ws.map fun w => .busWrite w.1 [w.2] true

/-- The events of one-byte writes of which the first `k` were acknowledged and the next one was not: the writes after
it are not issued (R182). -/
def stoppedAt (k : Nat) (ws : List (Byte × Byte)) : List Emitted :=
  acknowledged (ws.take k) ++ ((ws.drop k).take 1).map fun w => .busWrite w.1 [w.2] false

/-- The five writes that program the thresholds for an interrupt type, with the resolution of `opf` (R182). -/
def programmingWrites (s : State) (t : IrqType) : List (Byte × Byte) :=
  let margin : Int := if t = .within then -s.cfg.hyst else s.cfg.hyst
  let high := encodeSample (resolution s.cfg s.opf) (s.th.toInt + margin)
  let low := encodeSample (resolution s.cfg s.opf) (s.tl.toInt - margin)
  [(s.cfg.addrHthH, high.1), (s.cfg.addrHthL, high.2), (s.cfg.addrLthH, low.1), (s.cfg.addrLthL, low.2),
   (s.cfg.addrLatch, s.cfg.latchClearValue)]

/-- INTSRS with the type of a zone, as it is when it has that type already (R145, R190). -/
def intsrsFor (s : State) (z : Zone) : Byte :=
  if irqType s.cfg s.intsrs = typeFor z then s.intsrs
  else (s.intsrs &&& ~~~s.cfg.intsrsTypeMask) ||| irqTypeCode s.cfg (typeFor z)

/-- The writes that reprogram the device for a zone: the type, only when it changes, then the thresholds (R190). -/
def reprogramWrites (s : State) (z : Zone) : List (Byte × Byte) :=
  (if irqType s.cfg s.intsrs = typeFor z then [] else [(s.cfg.addrIntsrs, intsrsFor s z)]) ++
  programmingWrites s (typeFor z)

/-- OPF in measurement mode: `FUSE := 0, ACTIVE := 1` (R141). -/
def measuringOpf (s : State) : Byte := (s.opf &&& ~~~s.cfg.opfFuse) ||| s.cfg.opfActive

/-- The bytes of a sample read are one fresh sample: as many as the read asks for, data ready (R183). -/
def freshSample (c : Config) (b : List Byte) : Bool :=
  decide (b.length = c.sampleLen) && decide (b.getD c.statusIdx 0 &&& c.drdyMask ≠ 0)

/-- The number a sample read holds at a resolution (R183). -/
def sampleValue (c : Config) (r : Resolution) (b : List Byte) : Int :=
  decodeSample r (b.getD c.hiIdx 0) (b.getD c.loIdx 0)

/-! ### Register accesses (R52) -/

/-- One access of the block to the sensor's register space. -/
inductive Access where
  | read (addr : Byte)
  | write (addr : Byte)
  deriving DecidableEq, Repr

/-- The accesses among the given events, in order. -/
def accesses : List Emitted → List Access
  | [] => []
  | .busRead addr _ _ :: rest => .read addr :: accesses rest
  | .busWrite addr _ _ :: rest => .write addr :: accesses rest
  | _ :: rest => accesses rest

/-- Mode transitions and calibration write OPF. -/
def opfAccess (c : Config) : List Access := [.write c.addrOpf]

/-- Detection-mode changes, type changes and calibration write INTSRS. -/
def intsrsAccess (c : Config) : List Access := [.write c.addrIntsrs]

/-- What the threshold updater writes. -/
def thresholdAccess (c : Config) : List Access :=
  [.write c.addrHthH, .write c.addrHthL, .write c.addrLthH, .write c.addrLthL, .write c.addrLatch]

/-- What a sample read reads. -/
def sampleAccess (c : Config) : List Access := [.read c.sampleAddr]

/-- The accesses of a sample pass (R190). -/
def passAccess (c : Config) : List Access := intsrsAccess c ++ thresholdAccess c ++ sampleAccess c

/-- The accesses of a calibration (R210). -/
def calibrationAccess (c : Config) : List Access := opfAccess c ++ intsrsAccess c ++ sampleAccess c

/-- The accesses each command's rules name (R52). -/
def commandAccess (c : Config) : Instr → List Access
  | .modePd | .modeMeas | .modeFuse | .disable => opfAccess c
  | .setdetPoll => intsrsAccess c
  | .setdetInt => intsrsAccess c ++ thresholdAccess c
  | .updthr => thresholdAccess c
  | .enable => opfAccess c ++ passAccess c
  | .cal | .calpass1 | .calpass2 => calibrationAccess c
  | .regrd addr => [.read addr]
  | .regwr addr _ => [.write addr]
  | .chkid => [.read c.addrId]
  | .enc8 _ | .enc10 _ | .dec8 _ _ | .dec10 _ _ | .cls _ | .getzone | .setdly _ | .geten | .getdly | .setdbg _ | .getdbg
  | .setth _ | .getth | .settl _ | .gettl | .setpol _ | .getpol | .getref | .getcalst | .calapply1 | .calapply2
  | .getshadowOpf | .getshadowIntsrs => []

/-- The accesses of each event (R52, R247, R248, R272, R275). -/
def eventAccess (c : Config) : Event → List Access
  | .command w =>
    match decode w with
    | .ok i => commandAccess c i
    | .error _ => []
  | .workerRun => passAccess c
  | .irqEdge => []
  | .init => [.write c.addrSrst, .read c.addrId] ++ opfAccess c
  | .detach => []

/-! ### Calibration and ENABLE, step by step -/

/-- The release of a line that is attached, and nothing where none is (R140, R210). -/
def releaseEvents (s : State) : List Emitted := if s.irqAttached then [.irqRelease s.irqHandle] else []

/-- The request for the interrupt line, with the platform's answer (R143). -/
def requestEvent (s : State) (answer : Option Handle) : Emitted := .irqRequest s.cfg.irqLine ⟨true, true, true⟩ answer

/-- INTSRS after step 2 of a calibration: polling, at the fixed sensitivity (R210). -/
def calIntsrs (s : State) : Byte :=
  ((s.intsrs &&& ~~~s.cfg.intsrsDet) &&& ~~~s.cfg.intsrsSensMask) ||| s.cfg.calSens

/-- OPF with the active bit clear (R140). -/
def offOpf (s : State) : Byte := s.opf &&& ~~~s.cfg.opfActive

/-- OPF after step 3 of a calibration: 40 Hz in measurement mode, the resolution kept (R210). -/
def calOpf (s : State) : Byte :=
  (((s.opf &&& ~~~s.cfg.opfFreqMask) ||| s.cfg.freq40Hz) &&& ~~~s.cfg.opfFuse) ||| s.cfg.opfActive

/-- The three writes of steps 2 and 3 of a calibration, in order (R210). -/
def calibrationWrites (s : State) : List (Byte × Byte) :=
  [(s.cfg.addrIntsrs, calIntsrs s), (s.cfg.addrOpf, offOpf s), (s.cfg.addrOpf, calOpf s)]

/-- The reads of the samples after the first, each preceded by its wait; `none` is a non-acknowledgement (R210). -/
def laterReads (c : Config) (answers : List (Option (List Byte))) : List Emitted :=
  answers.flatMap fun a => [.wait c.calSampleWaitMs, .busRead c.sampleAddr c.sampleLen a]

/-- The reads of a calibration's samples, with the waits between them (R210). -/
def sampleReads (c : Config) : List (Option (List Byte)) → List Emitted
  | [] => []
  | a :: answers => .busRead c.sampleAddr c.sampleLen a :: laterReads c answers

/-- What a calibration emits up to the end of its sampling, when its first three writes are acknowledged: the release,
the writes, the wait before the first read, and the reads (R210). -/
def calibrationEvents (s : State) (answers : List (Option (List Byte))) : List Emitted :=
  releaseEvents s ++ acknowledged (calibrationWrites s) ++ [.wait s.cfg.calFirstWaitMs] ++ sampleReads s.cfg answers

/-- The answers to the restore of a calibration. The grant is asked for only where a line had been attached, and the
last write is made only on a block that is not enabled (R210). -/
structure RestoreAnswers where
  intsrsAck : Bool
  grant : Option Handle
  opfAck : Bool
  offAck : Bool
  deriving DecidableEq, Repr

/-- The acknowledgements the restore of a block in state `s` draws. -/
def RestoreAnswers.acks (r : RestoreAnswers) (s : State) : List Bool :=
  [r.intsrsAck, r.opfAck] ++ if s.enabled then [] else [r.offAck]

/-- Every step of the restore of a block in state `s` succeeds. -/
def RestoreAnswers.allGood (r : RestoreAnswers) (s : State) : Bool :=
  r.intsrsAck && (!s.irqAttached || r.grant.isSome) && r.opfAck && (s.enabled || r.offAck)

/-- The line is attached again. -/
def RestoreAnswers.holds (r : RestoreAnswers) (s : State) : Bool := s.irqAttached && r.grant.isSome

/-- The state after the restore: `s` is the state when the calibration began, `m` the state when the restore begins.
Every step is attempted, and each has its effect exactly where its answer is good (R210). -/
def restored (s m : State) (r : RestoreAnswers) : State :=
  let opf := if r.opfAck then measuringOpf s else m.opf
  let off := opf &&& ~~~s.cfg.opfActive
  { m with
    intsrs := if r.intsrsAck then s.intsrs else m.intsrs
    opf := if !s.enabled && r.offAck then off else opf
    irqAttached := r.holds s && s.enabled
    irqHandle := if s.irqAttached then (if s.enabled then r.grant else none) else s.irqHandle
    trace := m.trace ++ [.busWrite s.cfg.addrIntsrs [s.intsrs] r.intsrsAck] ++
      (if s.irqAttached then [requestEvent s r.grant] else []) ++
      [.busWrite s.cfg.addrOpf [measuringOpf s] r.opfAck] ++
      if s.enabled then [] else
        (if r.holds s then [.irqRelease r.grant] else []) ++ [.busWrite s.cfg.addrOpf [off] r.offAck] }

/-- What the environment still has to say after a calibration that has used up what was listed for it. -/
def State.envAfter (s : State) (acks : List Bool) (bytes : List Byte) (grants : List (Option Handle)) : Env :=
  { s.env with acks := acks, bytes := bytes, grants := if s.irqAttached then grants else s.env.grants }

/-- The writes of ENABLE's detection step, in order: those of SETDET.INT or that of SETDET.POLL (R145, R146, R150). -/
def detectionWrites (s : State) : List (Byte × Byte) :=
  match det s.cfg s.intsrs with
  | .interrupt => reprogramWrites s s.lastZone ++ [(s.cfg.addrIntsrs, intsrsFor s s.lastZone ||| s.cfg.intsrsDet)]
  | .polling => [(s.cfg.addrIntsrs, s.intsrs &&& ~~~s.cfg.intsrsDet)]

/-- INTSRS after the detection step. -/
def detectedIntsrs (s : State) : Byte :=
  match det s.cfg s.intsrs with
  | .interrupt => intsrsFor s s.lastZone ||| s.cfg.intsrsDet
  | .polling => s.intsrs &&& ~~~s.cfg.intsrsDet

/-- The state in which ENABLE's forced pass begins in interrupt mode: detection and mode are set, the line is attached
(requested only where none was), and the device has settled (R141, R150). `h` is the granted handle. -/
def beforeForcedPass (s : State) (h : Handle) : State :=
  { s with
    intsrs := detectedIntsrs s
    opf := measuringOpf s
    irqAttached := true
    irqHandle := if s.irqAttached then s.irqHandle else some h
    trace := s.trace ++ acknowledged (detectionWrites s) ++ [.busWrite s.cfg.addrOpf [measuringOpf s] true] ++
      (if s.irqAttached then [] else [requestEvent s (some h)]) ++ [.wait s.cfg.enableSettleMs] }

/-! ### Runs -/

/-- A step that goes on, rather than stopping. -/
def stepsTo (s t : State) : Prop := step s = .next t

/-- An infinite run. -/
def IsRun (run : Nat → State) : Prop := ∀ n, stepsTo (run n) (run (n + 1))

/-- The only fairness assumed (R250): a worker run that stays enabled is eventually taken, and the host eventually
presents its next command. -/
def IsFair (run : Nat → State) : Prop :=
  (∀ n, (∀ m, n ≤ m → (run m).alive = true ∧ (run m).pending = true) → ∃ m, n ≤ m ∧ (run m).env.event = .workerRun) ∧
  ∀ n, ∃ m, n ≤ m ∧ ∃ w, (run m).env.event = .command w

end Sys2Proof.Machine
end

