-- ==== Sys2Proof/Certificates/Slice0/Obligations.lean ====
section
/-! DEFINITION. The statements for the provers. A statement about every state is quantified over every configuration
and every list of answers of the environment, because both are in the state; `Config.wf` is the well-formedness R8 and
R9 ask of a configuration, with the two deduced conditions of logs 8 and 10. `State.reset` and REFCFG appear only in the
statements that name them. -/

open Sys2Proof Sys2Proof.Machine

/-! ### Encoding -/

/-- R71 to R80: every command's word decodes to it, and a word that decodes is its command's word: no bit is dropped. -/
def Obligations.DecodeAndEncodeAgree : Prop :=
  (∀ i : Instr, decode (encode i) = .ok i) ∧ ∀ (w : Word) (i : Instr), decode w = .ok i → encode i = w

/-- R78: a word decodes exactly when it matches a row of the opcode map, and to that row's command. -/
def Obligations.DecodeAcceptsExactlyTheMap : Prop :=
  (∀ w : Word, (∃ i, decode w = .ok i) ↔ ∃ r ∈ opcodeMap, r.hits w = true) ∧
  ∀ (w : Word) (i : Instr), decode w = .ok i → ∃ r, opcodeMap[rowIndex i]? = some r ∧ r.hits w = true

/-- R78: "No two rows match one word." -/
def Obligations.OpcodeRowsNeverOverlap : Prop :=
  ∀ (w : Word) (j k : Nat) (r q : OpcodeRow), opcodeMap[j]? = some r → opcodeMap[k]? = some q →
    r.hits w = true → q.hits w = true → j = k

/-- R81 and the words of 95_test_vectors.md: words written out from the encoding decode to their commands. -/
def Obligations.SpelledOutWordsDecode : Prop :=
  decode 0x0101FF5B = .ok (.enc10 (-165)) ∧ decode 0x0201C05B = .ok (.dec10 0xC0 0x5B) ∧
  decode 0x30000096 = .ok (.setth 150) ∧ decode 0x51300011 = .ok (.regwr 0x30 0x11) ∧
  decode 0x24000000 = .ok (.setdly 0) ∧ decode 0x22000000 = .ok .enable ∧ decode 0x41020000 = .ok .calpass2

/-- R246: an illegal word changes `S.status` and `S.result`, and nothing else happens. -/
def Obligations.IllegalWordIsReported : Prop :=
  ∀ (s : State) (w : Word), s.alive = true → s.env.event = .command w → (∀ r ∈ opcodeMap, r.hits w = false) →
    step s = .next { s.dropEvent with status := 6, result := 0 }

/-- R70, R78: at a boundary where a command word is presented, the step runs the decoded command, and nothing around it
but taking the word from the port. The last clause is the model's choice and no rule's (log 5): `withFetchWord` presents
the word from outside, and makes the block alive whatever it was. -/
def Obligations.StepRunsTheDecodedCommand : Prop :=
  (∀ (s : State) (w : Word) (i : Instr), s.alive = true → s.env.event = .command w → decode w = .ok i →
    step s = exec i { s with env := s.env.popEvent }) ∧
  (∀ (s : State) (w : Word) (rest : List Event), s.env.events = .command w :: rest →
    s.env.event = .command w ∧ s.env.popEvent = { s.env with events := rest }) ∧
  ∀ (s : State) (w : Word) (i : Instr), decode w = .ok i →
    step (s.withFetchWord 32 w.toNat) = exec i { s with alive := true }

/-- R81, R82: the command of every line of the syntax. A number outside its field's range is an assembly error, never
wrapped, and inside it the operand is the number. That a line with other operands, or with a mnemonic that neither R78
nor R82 has, is an assembly error too is the model's choice (log 16). -/
def Obligations.AssemblerNeverWraps : Prop :=
  let line (m : String) (ops : List AsmOperand) : Option Instr := assemble { mnemonic := m.toList, operands := ops }
  let byte (n : Int) : Prop := 0 ≤ n ∧ n ≤ 255
  let number (m : String) (f : Int → Option Instr) : Prop :=
    (∀ n, line m [.number n] = f n) ∧ ∀ ops, (∀ n, ops ≠ [.number n]) → line m ops = none
  let named (m : String) (f : List Char → Option Instr) : Prop :=
    (∀ n, line m [.name n] = f n) ∧ ∀ ops, (∀ n, ops ≠ [.name n]) → line m ops = none
  let signed : List (String × (Half → Instr)) :=
    [("ENC.8", .enc8), ("ENC.10", .enc10), ("CLS", .cls), ("SETTH", .setth), ("SETTL", .settl), ("SETPOL", .setpol)]
  let pairs : List (String × (Byte → Byte → Instr)) := [("DEC.8", .dec8), ("DEC.10", .dec10), ("REGWR", .regwr)]
  let plain : List (String × Instr) :=
    [("UPDTHR", .updthr), ("GETZONE", .getzone), ("MODE.PD", .modePd), ("MODE.MEAS", .modeMeas),
     ("MODE.FUSE", .modeFuse), ("SETDET.POLL", .setdetPoll), ("SETDET.INT", .setdetInt), ("ENABLE", .enable),
     ("DISABLE", .disable), ("GETEN", .geten), ("GETDLY", .getdly), ("GETDBG", .getdbg), ("GETTH", .getth),
     ("GETTL", .gettl), ("GETPOL", .getpol), ("CAL", .cal), ("CALPASS.1", .calpass1), ("CALPASS.2", .calpass2),
     ("GETREF", .getref), ("GETCALST", .getcalst), ("CALAPPLY.1", .calapply1), ("CALAPPLY.2", .calapply2),
     ("CHKID", .chkid), ("GETSHADOW.OPF", .getshadowOpf), ("GETSHADOW.INTSRS", .getshadowIntsrs)]
  let others : List String := ["SETDLY", "REGRD", "SETDBG", "SETEN", "SETMODE", "SETDET", "CALPASS"]
  (∀ p ∈ signed, number p.1 fun n => if -32768 ≤ n ∧ n ≤ 32767 then some (p.2 (BitVec.ofInt 16 n)) else none) ∧
  (number "SETDLY" fun n => if 0 ≤ n ∧ n ≤ 65535 then some (.setdly (BitVec.ofInt 16 n)) else none) ∧
  (number "REGRD" fun n => if byte n then some (.regrd (BitVec.ofInt 8 n)) else none) ∧
  (∀ p ∈ pairs,
    (∀ m n : Int, line p.1 [.number m, .number n] =
      if byte m ∧ byte n then some (p.2 (BitVec.ofInt 8 m) (BitVec.ofInt 8 n)) else none) ∧
    ∀ ops, (∀ m n, ops ≠ [.number m, .number n]) → line p.1 ops = none) ∧
  (number "SETDBG" fun n => if n = 0 then some (.setdbg false) else if n = 1 then some (.setdbg true) else none) ∧
  (∀ p ∈ plain, ∀ ops, line p.1 ops = if ops = [] then some p.2 else none) ∧
  (number "SETEN" fun n => if n = 0 then some .disable else if n = 1 then some .enable else none) ∧
  (number "CALPASS" fun n => if n = 1 then some .calpass1 else if n = 2 then some .calpass2 else none) ∧
  (named "SETMODE" fun n =>
    if n = "PowerDown".toList then some .modePd
    else if n = "Measurement".toList then some .modeMeas
    else if n = "FuseRomAccess".toList then some .modeFuse else none) ∧
  (named "SETDET" fun n =>
    if n = "polling".toList then some .setdetPoll else if n = "interrupt".toList then some .setdetInt else none) ∧
  ∀ l : AsmLine, (∀ m ∈ signed.map Prod.fst ++ pairs.map Prod.fst ++ plain.map Prod.fst ++ others, l.mnemonic ≠ m.toList) →
    assemble l = none

/-! ### Codec -/

/-- R121, R122: the pairs are the two's-complement patterns of the clamped number, in the layout of each resolution. -/
def Obligations.EncodedPairsAreTwosComplement : Prop :=
  ∀ v : Int,
    encode8 v = (0x00, BitVec.ofInt 8 (max (-128) (min 127 v))) ∧
    encode10 v = (((BitVec.ofInt 10 (max (-512) (min 511 v))).extractLsb' 8 2 ++ 0#6 : BitVec (2 + 6)),
      (BitVec.ofInt 10 (max (-512) (min 511 v))).extractLsb' 0 8)

/-- R126: ENC.8. -/
def Obligations.EncodeEightResult : Prop :=
  ∀ v : Half, decode (packWord 0x01 0x00 v) = .ok (.enc8 v) ∧
    ∀ s : State, exec (.enc8 v) s = .next { s with
      status := 0, result := (BitVec.ofInt 8 (max (-128) (min 127 v.toInt))).zeroExtend 32 }

/-- R127: ENC.10. -/
def Obligations.EncodeTenResult : Prop :=
  ∀ v : Half, decode (packWord 0x01 0x01 v) = .ok (.enc10 v) ∧
    ∀ s : State, exec (.enc10 v) s = .next { s with
      status := 0
      result := (0#16 ++ (BitVec.ofInt 10 (max (-512) (min 511 v.toInt))).extractLsb' 8 2 ++ 0#6 ++
        (BitVec.ofInt 10 (max (-512) (min 511 v.toInt))).extractLsb' 0 8 : BitVec (16 + 2 + 6 + 8)) }

/-- R128: DEC.8 sign-extends the low byte and ignores the high one. -/
def Obligations.DecodeEightResult : Prop :=
  ∀ hi lo : Byte, decode (packWord 0x02 0x00 (bytePair hi lo)) = .ok (.dec8 hi lo) ∧
    ∀ s : State, exec (.dec8 hi lo) s = .next { s with status := 0, result := lo.signExtend 32 }

/-- R129: DEC.10 sign-extends the pattern whose bits 9:8 are the high byte's bits 7:6. -/
def Obligations.DecodeTenResult : Prop :=
  ∀ hi lo : Byte, decode (packWord 0x02 0x01 (bytePair hi lo)) = .ok (.dec10 hi lo) ∧
    ∀ s : State, exec (.dec10 hi lo) s = .next { s with
      status := 0, result := (hi.extractLsb' 6 2 ++ lo : BitVec (2 + 8)).signExtend 32 }

/-- Round trip, saturation, range, and when re-encoding gives the same bytes: what R125 derives from R121 to R124. R125
says of the last that it is so "only when" the ignored bits are zero; here it is an equivalence. -/
def Obligations.CodecRoundTrip : Prop :=
  (∀ v : Int, -128 ≤ v ∧ v ≤ 127 → decode8 (encode8 v).1 (encode8 v).2 = v) ∧
  (∀ v : Int, -512 ≤ v ∧ v ≤ 511 → decode10 (encode10 v).1 (encode10 v).2 = v) ∧
  (∀ v : Int, encode8 v = encode8 (max (-128) (min 127 v)) ∧ encode10 v = encode10 (max (-512) (min 511 v))) ∧
  (∀ hi lo : Byte, -128 ≤ decode8 hi lo ∧ decode8 hi lo ≤ 127 ∧ -512 ≤ decode10 hi lo ∧ decode10 hi lo ≤ 511) ∧
  (∀ hi lo : Byte, encode8 (decode8 hi lo) = (hi, lo) ↔ hi = 0) ∧
  ∀ hi lo : Byte, encode10 (decode10 hi lo) = (hi, lo) ↔ hi.extractLsb' 0 6 = 0

/-! ### Classifier and threshold updater -/

/-- R191 with R180: CLS. `S.last_zone` is not written. -/
def Obligations.ClassifyCommandResult : Prop :=
  ∀ raw : Half, decode (packWord 0x10 0x00 raw) = .ok (.cls raw) ∧
    ∀ s : State, exec (.cls raw) s = .next { s with
      status := 0
      result :=
        if 0 < s.pol.toInt then
          if s.th.toInt ≤ raw.toInt then 2 else if raw.toInt ≤ s.tl.toInt then 0 else 1
        else
          if raw.toInt ≤ s.tl.toInt then 2 else if s.th.toInt ≤ raw.toInt then 0 else 1 }

/-- R180, R286, R35: with crossed thresholds no reading is in zone B, with a gap between them some reading is, and of
the polarity only whether it is positive matters. -/
def Obligations.ZoneBNeedsAGapBetweenThresholds : Prop :=
  ∀ s : State,
    (s.th.toInt ≤ s.tl.toInt → ∀ raw : Int, s.classify raw ≠ .b) ∧
    (s.tl.toInt + 1 < s.th.toInt → ∃ raw : Int, s.classify raw = .b) ∧
    ∀ p : Half, (0 < p.toInt ↔ 0 < s.pol.toInt) → ∀ raw : Int, ({ s with pol := p } : State).classify raw = s.classify raw

/-- R192 with R182: UPDTHR issues its five writes in order; the first that is not acknowledged ends it. -/
def Obligations.ThresholdUpdateWrites : Prop :=
  decode 0x11000000 = .ok .updthr ∧
  ∀ (s : State) (rest : List Bool), s.cfg.wf = true →
    (s.env.acks = List.replicate 5 true ++ rest → exec .updthr s = .next { s with
      status := 0, result := 0, env := { s.env with acks := rest }
      trace := s.trace ++ acknowledged (programmingWrites s (irqType s.cfg s.intsrs)) }) ∧
    ∀ k, k < 5 → s.env.acks = List.replicate k true ++ false :: rest → exec .updthr s = .next { s with
      status := 1, result := 0, env := { s.env with acks := rest }
      trace := s.trace ++ stoppedAt k (programmingWrites s (irqType s.cfg s.intsrs)) }

/-- The getters (R193, R195, R197, R199, R155, R156, R158, R217, R218, R104, R105): each returns its element, with
status OK and nothing else changed. -/
def Obligations.GettersReturnTheirElement : Prop :=
  (decode 0x12000000 = .ok .getzone ∧ decode 0x31000000 = .ok .getth ∧ decode 0x33000000 = .ok .gettl ∧
   decode 0x35000000 = .ok .getpol ∧ decode 0x25000000 = .ok .geten ∧ decode 0x26000000 = .ok .getdly ∧
   decode 0x28000000 = .ok .getdbg ∧ decode 0x42000000 = .ok .getref ∧ decode 0x43000000 = .ok .getcalst ∧
   decode 0x53000000 = .ok .getshadowOpf ∧ decode 0x53010000 = .ok .getshadowIntsrs) ∧
  ∀ s : State,
    exec .getzone s = .next { s with status := 0, result := match s.lastZone with | .a => 0 | .b => 1 | .c => 2 } ∧
    exec .getth s = .next { s with status := 0, result := s.th.signExtend 32 } ∧
    exec .gettl s = .next { s with status := 0, result := s.tl.signExtend 32 } ∧
    exec .getpol s = .next { s with status := 0, result := s.pol.signExtend 32 } ∧
    exec .geten s = .next { s with status := 0, result := if s.enabled then 1 else 0 } ∧
    exec .getdly s = .next { s with status := 0, result := s.delay.zeroExtend 32 } ∧
    exec .getdbg s = .next { s with status := 0, result := if s.debug then 1 else 0 } ∧
    exec .getref s = .next { s with status := 0, result := s.calRef.signExtend 32 } ∧
    exec .getcalst s = .next { s with
      status := 0, result := (if s.calLowDone then 2 else 0) + (if s.calHighDone then 1 else 0) } ∧
    exec .getshadowOpf s = .next { s with status := 0, result := s.opf.zeroExtend 32 } ∧
    exec .getshadowIntsrs s = .next { s with status := 0, result := s.intsrs.zeroExtend 32 }

/-- The setters (R194, R196, R198, R157): each stores its operand, unchecked and with no bus transaction. -/
def Obligations.SettersStoreTheirOperand : Prop :=
  ∀ (s : State) (v : Half) (b : Bool),
    (decode (packWord 0x30 0x00 v) = .ok (.setth v) ∧ exec (.setth v) s = .next { s with th := v, status := 0, result := 0 }) ∧
    (decode (packWord 0x32 0x00 v) = .ok (.settl v) ∧ exec (.settl v) s = .next { s with tl := v, status := 0, result := 0 }) ∧
    (decode (packWord 0x34 0x00 v) = .ok (.setpol v) ∧ exec (.setpol v) s = .next { s with pol := v, status := 0, result := 0 }) ∧
    (decode (packWord 0x27 (if b then 1 else 0) 0) = .ok (.setdbg b) ∧
      exec (.setdbg b) s = .next { s with debug := b, status := 0, result := 0 })

/-! ### Transport passthrough -/

/-- R101: REGRD returns the byte the device answers, or the transport error; it changes no shadow. -/
def Obligations.ReadRegisterCommand : Prop :=
  ∀ addr : Byte, decode (packWord 0x50 addr 0) = .ok (.regrd addr) ∧
    ∀ s : State, 1 ≤ s.cfg.maxXfer →
      (s.env.ack = true → exec (.regrd addr) s = .next { s with
        status := 0, result := s.env.popAck.byte.zeroExtend 32, env := s.env.popAck.popByte
        trace := s.trace ++ [.busRead addr 1 (some [s.env.popAck.byte])] }) ∧
      (s.env.ack = false → exec (.regrd addr) s = .next { s with
        status := 1, result := 0, env := s.env.popAck, trace := s.trace ++ [.busRead addr 1 none] })

/-- R102: REGWR is the write and its shadow, with the settle wait at the soft-reset register, and nothing else. -/
def Obligations.WriteRegisterCommand : Prop :=
  ∀ addr v : Byte, decode (packWord 0x51 addr (bytePair 0 v)) = .ok (.regwr addr v) ∧
    ∀ s : State, 1 ≤ s.cfg.maxXfer →
      (s.env.ack = true → exec (.regwr addr v) s = .next { s with
        opf := if addr = s.cfg.addrOpf then v else s.opf
        intsrs := if addr = s.cfg.addrIntsrs then v else s.intsrs
        status := 0, result := 0, env := s.env.popAck
        trace := s.trace ++ [.busWrite addr [v] true] ++
          if addr = s.cfg.addrSrst then [.wait s.cfg.srstSettleMs] else [] }) ∧
      (s.env.ack = false → exec (.regwr addr v) s = .next { s with
        status := 1, result := 0, env := s.env.popAck, trace := s.trace ++ [.busWrite addr [v] false] })

/-- R103: CHKID compares the identity register; a mismatch is result 0 with status OK. -/
def Obligations.CheckIdentityCommand : Prop :=
  decode 0x52000000 = .ok .chkid ∧
  ∀ s : State, 1 ≤ s.cfg.maxXfer →
    (s.env.ack = true → exec .chkid s = .next { s with
      status := 0, result := if s.env.popAck.byte = s.cfg.idValue then 1 else 0, env := s.env.popAck.popByte
      trace := s.trace ++ [.busRead s.cfg.addrId 1 (some [s.env.popAck.byte])] }) ∧
    (s.env.ack = false → exec .chkid s = .next { s with
      status := 1, result := 0, env := s.env.popAck, trace := s.trace ++ [.busRead s.cfg.addrId 1 none] })

/-! ### Operating modes and detection modes -/

/-- R147 with R140: MODE.PD releases an attached line, then clears the active bit; a failed write leaves the line
released. After the write the mode is PowerDown. -/
def Obligations.PowerDownCommand : Prop :=
  decode 0x20000000 = .ok .modePd ∧
  ∀ s : State, s.cfg.wf = true →
    let released : List Emitted := if s.irqAttached then [.irqRelease s.irqHandle] else []
    let v := s.opf &&& ~~~s.cfg.opfActive
    mode s.cfg v = .powerDown ∧
    (s.env.ack = true → exec .modePd s = .next { s with
      opf := v, irqAttached := false, irqHandle := if s.irqAttached then none else s.irqHandle
      status := 0, result := 0, env := s.env.popAck
      trace := s.trace ++ released ++ [.busWrite s.cfg.addrOpf [v] true] }) ∧
    (s.env.ack = false → exec .modePd s = .next { s with
      irqAttached := false, irqHandle := if s.irqAttached then none else s.irqHandle
      status := 1, result := 0, env := s.env.popAck
      trace := s.trace ++ released ++ [.busWrite s.cfg.addrOpf [v] false] })

/-- R148 with R141 and R143: MODE.MEAS writes both bits at once, and requests the line only in interrupt mode with none
attached; a refusal is reported with the OPF write standing. -/
def Obligations.MeasurementCommand : Prop :=
  decode 0x20010000 = .ok .modeMeas ∧
  ∀ s : State, s.cfg.wf = true →
    let v := measuringOpf s
    let asks := det s.cfg s.intsrs = .interrupt ∧ s.irqAttached = false
    mode s.cfg v = .measurement ∧
    (s.env.ack = false → exec .modeMeas s = .next { s with
      status := 1, result := 0, env := s.env.popAck, trace := s.trace ++ [.busWrite s.cfg.addrOpf [v] false] }) ∧
    (s.env.ack = true → ¬asks → exec .modeMeas s = .next { s with
      opf := v, status := 0, result := 0, env := s.env.popAck
      trace := s.trace ++ [.busWrite s.cfg.addrOpf [v] true] }) ∧
    (∀ h, s.env.ack = true → asks → s.env.popAck.grant = some h → exec .modeMeas s = .next { s with
      opf := v, irqAttached := true, irqHandle := some h, status := 0, result := 0, env := s.env.popAck.popGrant
      trace := s.trace ++ [.busWrite s.cfg.addrOpf [v] true, .irqRequest s.cfg.irqLine ⟨true, true, true⟩ (some h)] }) ∧
    (s.env.ack = true → asks → s.env.popAck.grant = none → exec .modeMeas s = .next { s with
      opf := v, status := 3, result := 0, env := s.env.popAck.popGrant
      trace := s.trace ++ [.busWrite s.cfg.addrOpf [v] true, .irqRequest s.cfg.irqLine ⟨true, true, true⟩ none] })

/-- R149 with R142: MODE.FUSE sets both bits and leaves the line alone. -/
def Obligations.FuseRomCommand : Prop :=
  decode 0x20020000 = .ok .modeFuse ∧
  ∀ s : State, s.cfg.wf = true →
    let v := s.opf ||| s.cfg.opfFuse ||| s.cfg.opfActive
    mode s.cfg v = .fuseRomAccess ∧
    (s.env.ack = true → exec .modeFuse s = .next { s with
      opf := v, status := 0, result := 0, env := s.env.popAck
      trace := s.trace ++ [.busWrite s.cfg.addrOpf [v] true] }) ∧
    (s.env.ack = false → exec .modeFuse s = .next { s with
      status := 1, result := 0, env := s.env.popAck, trace := s.trace ++ [.busWrite s.cfg.addrOpf [v] false] })

/-- R153 with R146: SETDET.POLL writes the register with the detection bit clear, also when it is clear already. -/
def Obligations.PollingDetectionCommand : Prop :=
  decode 0x21000000 = .ok .setdetPoll ∧
  ∀ s : State, s.cfg.wf = true →
    let v := s.intsrs &&& ~~~s.cfg.intsrsDet
    det s.cfg v = .polling ∧
    (s.env.ack = true → exec .setdetPoll s = .next { s with
      intsrs := v, status := 0, result := 0, env := s.env.popAck
      trace := s.trace ++ [.busWrite s.cfg.addrIntsrs [v] true] }) ∧
    (s.env.ack = false → exec .setdetPoll s = .next { s with
      status := 1, result := 0, env := s.env.popAck, trace := s.trace ++ [.busWrite s.cfg.addrIntsrs [v] false] })

/-- R154 with R145: SETDET.INT writes the type of the last zone if it differs, the thresholds, the latch and the
detection bit, in that order; the first write that fails ends it with the earlier ones standing. -/
def Obligations.InterruptDetectionCommand : Prop :=
  decode 0x21010000 = .ok .setdetInt ∧
  ∀ (s : State) (rest : List Bool), s.cfg.wf = true →
    let v := intsrsFor s s.lastZone ||| s.cfg.intsrsDet
    let ws := reprogramWrites s s.lastZone ++ [(s.cfg.addrIntsrs, v)]
    det s.cfg v = .interrupt ∧ irqType s.cfg v = typeFor s.lastZone ∧
    (s.env.acks = List.replicate ws.length true ++ rest → exec .setdetInt s = .next { s with
      intsrs := v, status := 0, result := 0, env := { s.env with acks := rest }
      trace := s.trace ++ acknowledged ws }) ∧
    ∀ k, k < ws.length → s.env.acks = List.replicate k true ++ false :: rest → exec .setdetInt s = .next { s with
      intsrs := lastWritten s.cfg.addrIntsrs s.intsrs (stoppedAt k ws)
      status := 1, result := 0, env := { s.env with acks := rest }, trace := s.trace ++ stoppedAt k ws }

/-! ### Lifecycle -/

/-- R150, R151: ENABLE on an enabled block and DISABLE on a disabled one do nothing but complete. -/
def Obligations.EnableAndDisableAreIdempotent : Prop :=
  ∀ s : State,
    (s.enabled = true → exec .enable s = .next { s with status := 0, result := 0 }) ∧
    (s.enabled = false → exec .disable s = .next { s with status := 0, result := 0 })

/-- R150, the polling half: detection write, Measurement, and the first sample scheduled after `delay`. -/
def Obligations.EnableStartsPolling : Prop :=
  decode 0x22000000 = .ok .enable ∧
  ∀ (s : State) (rest : List Bool), s.cfg.wf = true → s.enabled = false → det s.cfg s.intsrs = .polling →
    s.env.acks = true :: true :: rest →
    exec .enable s = .next { s with
      intsrs := s.intsrs &&& ~~~s.cfg.intsrsDet, opf := measuringOpf s, enabled := true, pending := true
      status := 0, result := 0, env := { s.env with acks := rest }
      trace := s.trace ++ [.busWrite s.cfg.addrIntsrs [s.intsrs &&& ~~~s.cfg.intsrsDet] true,
        .busWrite s.cfg.addrOpf [measuringOpf s] true, .schedule s.delay.toNat] }

/-- R150, the interrupt half, with R141 and R190: detection, Measurement, the line requested only where none is attached,
the settle wait, and one forced pass that seeds `last_zone` and the sink and reprograms the device; nothing is scheduled. -/
def Obligations.EnableForcesOnePass : Prop :=
  ∀ (s : State) (acks : List Bool) (b bytes : List Byte) (h : Handle) (grants : List (Option Handle)),
    s.cfg.wf = true → s.enabled = false → det s.cfg s.intsrs = .interrupt → freshSample s.cfg b = true →
    let raw := sampleValue s.cfg (resolution s.cfg s.opf) b
    let z := s.classify raw
    let s1 := beforeForcedPass s h
    let ws := reprogramWrites s1 z
    s.env.acks = List.replicate ((detectionWrites s).length + 2 + ws.length) true ++ acks → s.env.bytes = b ++ bytes →
    (s.irqAttached = false → s.env.grants = some h :: grants) →
    exec .enable s = .next { s1 with
      enabled := true, lastZone := z, intsrs := intsrsFor s1 z, status := 0, result := 0
      env := { s.env with acks := acks, bytes := bytes, grants := if s.irqAttached then s.env.grants else grants }
      trace := s1.trace ++ [.busRead s.cfg.sampleAddr s.cfg.sampleLen (some b), .publish (sinkValue s.cfg raw z)] ++
        acknowledged ws }

/-- R150 with R190: a failure inside the forced pass is logged and does not fail ENABLE (D20). A read that is not
acknowledged or not ready leaves the zone alone; a reprogramming write that is not acknowledged comes after the
publication. -/
def Obligations.EnableSurvivesAFailedPass : Prop :=
  ∀ (s : State) (acks : List Bool) (b bytes : List Byte) (h : Handle) (grants : List (Option Handle)),
    s.cfg.wf = true → s.enabled = false → det s.cfg s.intsrs = .interrupt →
    (s.irqAttached = false → s.env.grants = some h :: grants) →
    let raw := sampleValue s.cfg (resolution s.cfg s.opf) b
    let z := s.classify raw
    let s1 := beforeForcedPass s h
    let ws := reprogramWrites s1 z
    let n := (detectionWrites s).length + 1
    let left := if s.irqAttached then s.env.grants else grants
    (s.env.acks = List.replicate n true ++ false :: acks → exec .enable s = .next { s1 with
      enabled := true, status := 0, result := 0, env := { s.env with acks := acks, grants := left }
      trace := s1.trace ++ [.busRead s.cfg.sampleAddr s.cfg.sampleLen none, .log 1] }) ∧
    (s.env.acks = List.replicate n true ++ true :: acks → s.env.bytes = b ++ bytes → b.length = s.cfg.sampleLen →
      freshSample s.cfg b = false → exec .enable s = .next { s1 with
        enabled := true, status := 0, result := 0, env := { s.env with acks := acks, bytes := bytes, grants := left }
        trace := s1.trace ++ [.busRead s.cfg.sampleAddr s.cfg.sampleLen (some b), .log 4] }) ∧
    ∀ k, k < ws.length → s.env.acks = List.replicate (n + 1 + k) true ++ false :: acks → s.env.bytes = b ++ bytes →
      freshSample s.cfg b = true → exec .enable s = .next { s1 with
        enabled := true, lastZone := z, intsrs := lastWritten s.cfg.addrIntsrs s1.intsrs (stoppedAt k ws)
        status := 0, result := 0, env := { s.env with acks := acks, bytes := bytes, grants := left }
        trace := s1.trace ++ [.busRead s.cfg.sampleAddr s.cfg.sampleLen (some b), .publish (sinkValue s.cfg raw z)] ++
          stoppedAt k ws ++ [.log 1] }

/-- R150, R243: an ENABLE that reports an error leaves the block disabled, with nothing scheduled, classified or
published; otherwise the block is enabled. The three causes, each with what stands: a write of the detection step not
acknowledged, the OPF write not acknowledged, the line refused. -/
def Obligations.FailedEnableLeavesBlockDisabled : Prop :=
  (∀ s t : State, s.enabled = false → exec .enable s = .next t →
    (t.status = 0 ∧ t.enabled = true) ∨
    ((t.status = 1 ∨ t.status = 3) ∧ t.result = 0 ∧ t.enabled = false ∧ t.pending = s.pending ∧
      t.lastZone = s.lastZone ∧ ∃ new, t.trace = s.trace ++ new ∧ published new = [])) ∧
  ∀ (s : State) (acks : List Bool) (grants : List (Option Handle)), s.cfg.wf = true → s.enabled = false →
    let ws := detectionWrites s
    (∀ k, k < ws.length → s.env.acks = List.replicate k true ++ false :: acks → exec .enable s = .next { s with
      intsrs := lastWritten s.cfg.addrIntsrs s.intsrs (stoppedAt k ws)
      status := 1, result := 0, env := { s.env with acks := acks }, trace := s.trace ++ stoppedAt k ws }) ∧
    (s.env.acks = List.replicate ws.length true ++ false :: acks → exec .enable s = .next { s with
      intsrs := detectedIntsrs s, status := 1, result := 0, env := { s.env with acks := acks }
      trace := s.trace ++ acknowledged ws ++ [.busWrite s.cfg.addrOpf [measuringOpf s] false] }) ∧
    (s.env.acks = List.replicate (ws.length + 1) true ++ acks → det s.cfg s.intsrs = .interrupt →
      s.irqAttached = false → s.env.grants = none :: grants → exec .enable s = .next { s with
        intsrs := detectedIntsrs s, opf := measuringOpf s
        status := 3, result := 0, env := { s.env with acks := acks, grants := grants }
        trace := s.trace ++ acknowledged ws ++ [.busWrite s.cfg.addrOpf [measuringOpf s] true, requestEvent s none] })

/-- R151: DISABLE cancels, releases the line and powers down; a failed write leaves the block enabled for a retry. -/
def Obligations.DisableCommand : Prop :=
  decode 0x23000000 = .ok .disable ∧
  ∀ s : State, s.cfg.wf = true → s.enabled = true →
    let released : List Emitted := if s.irqAttached then [.irqRelease s.irqHandle] else []
    let v := s.opf &&& ~~~s.cfg.opfActive
    (s.env.ack = true → exec .disable s = .next { s with
      opf := v, irqAttached := false, irqHandle := if s.irqAttached then none else s.irqHandle
      pending := false, enabled := false, status := 0, result := 0, env := s.env.popAck
      trace := s.trace ++ [.cancelAndWait] ++ released ++ [.busWrite s.cfg.addrOpf [v] true] }) ∧
    (s.env.ack = false → exec .disable s = .next { s with
      irqAttached := false, irqHandle := if s.irqAttached then none else s.irqHandle
      pending := false, status := 1, result := 0, env := s.env.popAck
      trace := s.trace ++ [.cancelAndWait] ++ released ++ [.busWrite s.cfg.addrOpf [v] false] })

/-- R151: after a DISABLE of an enabled block that returned OK, no run of worker starts and edges, however long, changes
anything or publishes anything: the environment's offers are all that is used up. That an event not taken uses up its
place among them is the model's choice (log 11). -/
def Obligations.NothingHappensAfterDisable : Prop :=
  ∀ (s t : State) (es rest : List Event), s.alive = true → s.enabled = true → exec .disable s = .next t →
    t.status = 0 → t.env.events = es ++ rest → (∀ e ∈ es, e = .workerRun ∨ e = .irqEdge) →
    Sys2Proof.core.run es.length t = .next { t with env := { t.env with events := rest } }

/-- R152: SETDLY stores the floor-clamped delay, and cancels and reschedules only on an enabled block in polling mode. -/
def Obligations.SetDelayCommand : Prop :=
  ∀ ms : Half, decode (packWord 0x24 0x00 ms) = .ok (.setdly ms) ∧
    ∀ s : State, ∃ d : Half, d.toNat = max ms.toNat s.cfg.delayMin.toNat ∧
      exec (.setdly ms) s = .next (
        if s.enabled = true ∧ det s.cfg s.intsrs = .polling then
          { s with delay := d, pending := true, status := 0, result := 0
                   trace := s.trace ++ [.cancelAndWait, .schedule d.toNat] }
        else { s with delay := d, status := 0, result := 0 })

/-! ### Calibration -/

/-- R214 to R216 with R210 and R211: a calibration in which everything is acknowledged, every sample is fresh and the
line, where one was attached, is granted again. It emits the release, its three writes, the waits and the reads, and then
the restore; it stores the truncated mean, restores INTSRS, resolution and frequency, ends in Measurement or, on a
disabled block, in PowerDown, and changes nothing else but its pass's flag. -/
def Obligations.CalibrationLearnsTheMean : Prop :=
  ∀ (i : Instr) (s : State) (samples : List (List Byte)) (acks : List Bool) (bytes : List Byte) (h : Handle)
    (grants : List (Option Handle)),
    i = .cal ∨ i = .calpass1 ∨ i = .calpass2 → s.cfg.wf = true →
    samples.length = s.cfg.calN → (∀ b ∈ samples, freshSample s.cfg b = true) →
    s.env.acks = List.replicate (s.cfg.calN + if s.enabled then 5 else 6) true ++ acks →
    s.env.bytes = samples.flatten ++ bytes → (s.irqAttached = true → s.env.grants = some h :: grants) →
    let mean := (samples.map (sampleValue s.cfg (resolution s.cfg s.opf))).sum.tdiv s.cfg.calN
    let meas := measuringOpf s
    let off := meas &&& ~~~s.cfg.opfActive
    let back : List Emitted := if s.irqAttached then [requestEvent s (some h)] else []
    let released : List Emitted := if s.irqAttached then [.irqRelease (some h)] else []
    (BitVec.ofInt 16 mean).toInt = mean ∧ exec i s = .next { s with
      opf := if s.enabled then meas else off
      calRef := BitVec.ofInt 16 mean, result := BitVec.ofInt 32 mean, status := 0
      calHighDone := s.calHighDone || i == .calpass1, calLowDone := s.calLowDone || i == .calpass2
      irqAttached := s.irqAttached && s.enabled
      irqHandle := if s.irqAttached then (if s.enabled then some h else none) else s.irqHandle
      env := s.envAfter acks bytes grants
      trace := s.trace ++ calibrationEvents s (samples.map some) ++
        [.busWrite s.cfg.addrIntsrs [s.intsrs] true] ++ back ++ [.busWrite s.cfg.addrOpf [meas] true] ++
        if s.enabled then [] else released ++ [.busWrite s.cfg.addrOpf [off] true] }

/-- R212: the first sample that is not fresh stops the sampling; the reference and the flags keep their values, the
restore runs, whatever it meets, and the command reports `CalibrationError`. -/
def Obligations.CalibrationStopsAtFirstStaleSample : Prop :=
  ∀ (i : Instr) (s : State) (samples : List (List Byte)) (stale : List Byte) (acks : List Bool) (bytes : List Byte)
    (r : RestoreAnswers) (grants : List (Option Handle)),
    i = .cal ∨ i = .calpass1 ∨ i = .calpass2 → s.cfg.wf = true →
    samples.length < s.cfg.calN → (∀ b ∈ samples, freshSample s.cfg b = true) →
    stale.length = s.cfg.sampleLen → freshSample s.cfg stale = false →
    s.env.acks = List.replicate (samples.length + 4) true ++ r.acks s ++ acks →
    s.env.bytes = samples.flatten ++ stale ++ bytes → (s.irqAttached = true → s.env.grants = r.grant :: grants) →
    exec i s = .next { restored s { s with
      opf := calOpf s, intsrs := calIntsrs s, env := s.envAfter acks bytes grants
      trace := s.trace ++ calibrationEvents s (samples.map some ++ [some stale]) } r with status := 5, result := 0 }

/-- R212 with R210: a write of step 2 or 3, or a sample read, that is not acknowledged stops the calibration there, with
the writes before it standing; the reference and the flags keep their values, the restore runs, whatever it meets, and the
command reports `CalibrationError`. -/
def Obligations.CalibrationStopsAtRefusedTransaction : Prop :=
  ∀ (i : Instr) (s : State) (acks : List Bool) (bytes : List Byte) (r : RestoreAnswers) (grants : List (Option Handle)),
    i = .cal ∨ i = .calpass1 ∨ i = .calpass2 → s.cfg.wf = true →
    (s.irqAttached = true → s.env.grants = r.grant :: grants) →
    let ws := calibrationWrites s
    (∀ k, k < 3 → s.env.acks = List.replicate k true ++ false :: (r.acks s ++ acks) →
      exec i s = .next { restored s { s with
        opf := lastWritten s.cfg.addrOpf s.opf (stoppedAt k ws)
        intsrs := lastWritten s.cfg.addrIntsrs s.intsrs (stoppedAt k ws)
        env := s.envAfter acks s.env.bytes grants
        trace := s.trace ++ releaseEvents s ++ stoppedAt k ws } r with status := 5, result := 0 }) ∧
    ∀ samples : List (List Byte), samples.length < s.cfg.calN → (∀ b ∈ samples, freshSample s.cfg b = true) →
      s.env.acks = List.replicate (samples.length + 3) true ++ false :: (r.acks s ++ acks) →
      s.env.bytes = samples.flatten ++ bytes →
      exec i s = .next { restored s { s with
        opf := calOpf s, intsrs := calIntsrs s, env := s.envAfter acks bytes grants
        trace := s.trace ++ calibrationEvents s (samples.map some ++ [none]) } r with status := 5, result := 0 }

/-- R212 with R210: a calibration that takes all its samples and meets a failure in the restore alone keeps the NEW mean
and reports `CalibrationError`. Every restore step is attempted, and each has its effect exactly where it succeeds. -/
def Obligations.CalibrationRestoreIsBestEffort : Prop :=
  ∀ (i : Instr) (s : State) (samples : List (List Byte)) (acks : List Bool) (bytes : List Byte) (r : RestoreAnswers)
    (grants : List (Option Handle)),
    i = .cal ∨ i = .calpass1 ∨ i = .calpass2 → s.cfg.wf = true → r.allGood s = false →
    samples.length = s.cfg.calN → (∀ b ∈ samples, freshSample s.cfg b = true) →
    s.env.acks = List.replicate (s.cfg.calN + 3) true ++ r.acks s ++ acks →
    s.env.bytes = samples.flatten ++ bytes → (s.irqAttached = true → s.env.grants = r.grant :: grants) →
    let mean := (samples.map (sampleValue s.cfg (resolution s.cfg s.opf))).sum.tdiv s.cfg.calN
    (BitVec.ofInt 16 mean).toInt = mean ∧ exec i s = .next { restored s { s with
      opf := calOpf s, intsrs := calIntsrs s, calRef := BitVec.ofInt 16 mean, env := s.envAfter acks bytes grants
      trace := s.trace ++ calibrationEvents s (samples.map some) } r with status := 5, result := 0 }

/-- R212, R213, R245: whatever the bus and the platform answer, a calibration command completes OK or with
`CalibrationError` and its flag unset. A failed one keeps the reference unless it took all its samples. It never touches
the slot, the thresholds, the zone or the lifecycle, and it publishes nothing. -/
def Obligations.CalibrationFrame : Prop :=
  ∀ (i : Instr) (s : State), i = .cal ∨ i = .calpass1 ∨ i = .calpass2 →
    ∃ t new, exec i s = .next t ∧
      ((t.status = 0 ∧ t.calHighDone = (s.calHighDone || i == .calpass1) ∧ t.calLowDone = (s.calLowDone || i == .calpass2) ∧
          t.result = t.calRef.signExtend 32) ∨
        (t.status = 5 ∧ t.result = 0 ∧ t.calHighDone = s.calHighDone ∧ t.calLowDone = s.calLowDone ∧
          (t.calRef = s.calRef ∨ readAddresses new = List.replicate s.cfg.calN s.cfg.sampleAddr))) ∧
      t.trace = s.trace ++ new ∧ published new = [] ∧
      t.enabled = s.enabled ∧ t.delay = s.delay ∧ t.debug = s.debug ∧ t.lastZone = s.lastZone ∧ t.th = s.th ∧
      t.tl = s.tl ∧ t.pol = s.pol ∧ t.pending = s.pending ∧ t.alive = s.alive ∧ t.cfg = s.cfg

/-- R219, R220: CALAPPLY writes one threshold, chosen by the pass and the sign of the polarity, at the tolerance from the
reference; where the sum is a number of s16 the threshold is exactly it. Outside s16 the value is the free one of log 9. -/
def Obligations.ThresholdFromReference : Prop :=
  (decode 0x44010000 = .ok .calapply1 ∧ decode 0x44020000 = .ok .calapply2) ∧
  ∀ s : State,
    let below := toS16 (s.calRef.toInt - s.cfg.calTol)
    let above := toS16 (s.calRef.toInt + s.cfg.calTol)
    exec .calapply1 s = .next (if 0 < s.pol.toInt then { s with th := below, status := 0, result := 0 }
      else { s with tl := above, status := 0, result := 0 }) ∧
    exec .calapply2 s = .next (if 0 < s.pol.toInt then { s with tl := above, status := 0, result := 0 }
      else { s with th := below, status := 0, result := 0 }) ∧
    (-32768 ≤ s.calRef.toInt - s.cfg.calTol ∧ s.calRef.toInt - s.cfg.calTol ≤ 32767 →
      below.toInt = s.calRef.toInt - s.cfg.calTol) ∧
    (-32768 ≤ s.calRef.toInt + s.cfg.calTol ∧ s.calRef.toInt + s.cfg.calTol ≤ 32767 →
      above.toInt = s.calRef.toInt + s.cfg.calTol)

/-! ### Events: the worker, the interrupt line, INIT and DETACH -/

/-- R190 with R247, polling mode: the run clears the slot, reads one sample, classifies and publishes it, and rearms the
slot if the block is enabled. -/
def Obligations.WorkerRunInPollingMode : Prop :=
  ∀ (s : State) (events : List Event) (acks : List Bool) (b bytes : List Byte),
    s.cfg.wf = true → s.alive = true → s.pending = true → det s.cfg s.intsrs = .polling →
    s.env.events = .workerRun :: events → s.env.acks = true :: acks → s.env.bytes = b ++ bytes →
    freshSample s.cfg b = true →
    let raw := sampleValue s.cfg (resolution s.cfg s.opf) b
    step s = .next { s with
      lastZone := s.classify raw, pending := s.enabled
      env := { s.env with events := events, acks := acks, bytes := bytes }
      trace := s.trace ++ [.busRead s.cfg.sampleAddr s.cfg.sampleLen (some b),
        .publish (sinkValue s.cfg raw (s.classify raw))] ++ if s.enabled then [.schedule s.delay.toNat] else [] }

/-- R190, interrupt mode: after the publication the type is written if the zone changes it, and the thresholds and the
latch always; the slot is not rearmed. A write that is not acknowledged is caught: it is logged after the publication,
with the earlier writes standing and the later ones not issued (R285(a)). -/
def Obligations.WorkerRunInInterruptMode : Prop :=
  ∀ (s : State) (events : List Event) (acks : List Bool) (b bytes : List Byte),
    s.cfg.wf = true → s.alive = true → s.pending = true → det s.cfg s.intsrs = .interrupt →
    freshSample s.cfg b = true → s.env.events = .workerRun :: events → s.env.bytes = b ++ bytes →
    let raw := sampleValue s.cfg (resolution s.cfg s.opf) b
    let z := s.classify raw
    let ws := reprogramWrites s z
    let seen : List Emitted :=
      [.busRead s.cfg.sampleAddr s.cfg.sampleLen (some b), .publish (sinkValue s.cfg raw z)]
    (s.env.acks = List.replicate (1 + ws.length) true ++ acks → step s = .next { s with
      lastZone := z, pending := false, intsrs := intsrsFor s z
      env := { s.env with events := events, acks := acks, bytes := bytes }
      trace := s.trace ++ seen ++ acknowledged ws }) ∧
    ∀ k, k < ws.length → s.env.acks = List.replicate (1 + k) true ++ false :: acks → step s = .next { s with
      lastZone := z, pending := false, intsrs := lastWritten s.cfg.addrIntsrs s.intsrs (stoppedAt k ws)
      env := { s.env with events := events, acks := acks, bytes := bytes }
      trace := s.trace ++ seen ++ stoppedAt k ws ++ [.log 1] }

/-- R254 with R190: a read that is not acknowledged, or that finds no fresh sample, is logged and skipped, and in enabled
polling mode the next sample is scheduled all the same. -/
def Obligations.FailedReadIsLoggedAndSkipped : Prop :=
  ∀ (s : State) (events : List Event) (acks : List Bool) (b bytes : List Byte),
    s.cfg.wf = true → s.alive = true → s.pending = true → s.env.events = .workerRun :: events →
    let again := s.enabled = true ∧ det s.cfg s.intsrs = .polling
    (s.env.acks = false :: acks → step s = .next { s with
      pending := decide again, env := { s.env with events := events, acks := acks }
      trace := s.trace ++ [.busRead s.cfg.sampleAddr s.cfg.sampleLen none, .log 1] ++
        if again then [.schedule s.delay.toNat] else [] }) ∧
    (s.env.acks = true :: acks → s.env.bytes = b ++ bytes → b.length = s.cfg.sampleLen → freshSample s.cfg b = false →
      step s = .next { s with
        pending := decide again, env := { s.env with events := events, acks := acks, bytes := bytes }
        trace := s.trace ++ [.busRead s.cfg.sampleAddr s.cfg.sampleLen (some b), .log 4] ++
          if again then [.schedule s.delay.toNat] else [] })

/-- R248: an edge on the attached line arms the worker and does nothing else; an edge with no line attached is lost. That a lost
edge uses up its place among the offered events is the model's choice (log 11). -/
def Obligations.EdgeOnlyArmsTheWorker : Prop :=
  ∀ s : State, s.alive = true → s.env.event = .irqEdge →
    (s.irqAttached = true → step s = .next { s with
      pending := true, env := s.env.popEvent, trace := s.trace ++ [.schedule 0] }) ∧
    (s.irqAttached = false → step s = .next { s with env := s.env.popEvent })

/-- R272 with R270: INIT of a block that is not alive, acknowledged throughout and with the right identity, gives every
element its reset value whatever it held. -/
def Obligations.InitGivesResetValues : Prop :=
  ∀ (s : State) (events : List Event) (acks : List Bool) (bytes : List Byte),
    s.cfg.wf = true → s.alive = false → s.env.events = .init :: events → s.env.acks = true :: true :: true :: acks →
    s.env.bytes = s.cfg.idValue :: bytes →
    let off := s.cfg.opfReset &&& ~~~s.cfg.opfActive
    step s = .next {
      opf := off, intsrs := s.cfg.intsrsReset, enabled := false, delay := s.cfg.delayReset, debug := false
      lastZone := s.cfg.lastZoneReset, th := s.cfg.thReset, tl := s.cfg.tlReset, calRef := s.cfg.calRefReset
      pol := s.cfg.polReset, calHighDone := false, calLowDone := false, irqAttached := false, irqHandle := none
      pending := false, result := 0, status := 0, alive := true, cfg := s.cfg
      env := { s.env with events := events, acks := acks, bytes := bytes }
      trace := s.trace ++ [.busWrite s.cfg.addrSrst [s.cfg.srstValue] true, .wait s.cfg.srstSettleMs,
        .busRead s.cfg.addrId 1 (some [s.cfg.idValue]), .busWrite s.cfg.addrOpf [off] true] }

/-- R272, R273: an INIT that meets a failure leaves the block not alive, with no pass owed and no line held. Its four
causes, each with what it has emitted: the soft-reset write, the identity read or the PowerDown write is not acknowledged,
or the identity is wrong. That the code of the error is then in `S.status` is the model's choice (log 7). -/
def Obligations.FailedInitLeavesBlockDead : Prop :=
  (∀ s : State, s.alive = false → s.env.event = .init →
    ∃ t, step s = .next t ∧ ((t.alive = true ∧ t.status = 0) ∨
      (t.alive = false ∧ (t.status = 1 ∨ t.status = 2) ∧ t.pending = false ∧ t.irqAttached = false))) ∧
  ∀ (s : State) (events : List Event) (acks : List Bool) (b : Byte) (bytes : List Byte),
    s.cfg.wf = true → s.alive = false → s.env.events = .init :: events →
    let dead (status : Byte) (bytes : List Byte) (new : List Emitted) : State := {
      opf := s.cfg.opfReset, intsrs := s.cfg.intsrsReset, enabled := false, delay := s.cfg.delayReset, debug := false
      lastZone := s.cfg.lastZoneReset, th := s.cfg.thReset, tl := s.cfg.tlReset, calRef := s.cfg.calRefReset
      pol := s.cfg.polReset, calHighDone := false, calLowDone := false, irqAttached := false, irqHandle := none
      pending := false, result := 0, status := status, alive := false, cfg := s.cfg
      env := { s.env with events := events, acks := acks, bytes := bytes }, trace := s.trace ++ new }
    let reset : List Emitted := [.busWrite s.cfg.addrSrst [s.cfg.srstValue] true, .wait s.cfg.srstSettleMs]
    (s.env.acks = false :: acks →
      step s = .next (dead 1 s.env.bytes [.busWrite s.cfg.addrSrst [s.cfg.srstValue] false])) ∧
    (s.env.acks = true :: false :: acks → step s = .next (dead 1 s.env.bytes (reset ++ [.busRead s.cfg.addrId 1 none]))) ∧
    (s.env.acks = true :: true :: acks → s.env.bytes = b :: bytes → b ≠ s.cfg.idValue →
      step s = .next (dead 2 bytes (reset ++ [.busRead s.cfg.addrId 1 (some [b])]))) ∧
    (s.env.acks = true :: true :: false :: acks → s.env.bytes = s.cfg.idValue :: bytes →
      step s = .next (dead 1 bytes (reset ++ [.busRead s.cfg.addrId 1 (some [s.cfg.idValue]),
        .busWrite s.cfg.addrOpf [s.cfg.opfReset &&& ~~~s.cfg.opfActive] false])))

/-- R275, R256: DETACH drains the slot, releases the line and ends the block's life, and all state is lost: two blocks of
one configuration that have emitted the same, and whose lines are alike, end in one state, whatever the other elements
were. What the elements then hold is a free value of the model (log 17), used up with the event; these clauses hold for
every such value. -/
def Obligations.DetachReleasesEverything : Prop :=
  (∀ s : State, s.alive = true → s.env.event = .detach →
    let l := Config.lostState s.env.popEvent.draws
    ∃ (delay calRef : Half) (status : Byte), s.cfg.delayMin ≤ delay ∧ -512 ≤ calRef.toInt ∧ calRef.toInt ≤ 511 ∧
      status ≤ 6 ∧ step s = .next {
        opf := l.opf, intsrs := l.intsrs, enabled := l.enabled, delay := delay, debug := l.debug, lastZone := l.lastZone
        th := l.th, tl := l.tl, calRef := calRef, pol := l.pol, calHighDone := l.calHighDone, calLowDone := l.calLowDone
        irqAttached := false, irqHandle := none, pending := false, result := l.result, status := status, alive := false
        cfg := s.cfg, env := s.env.popEvent.drawn
        trace := s.trace ++ [.cancelAndWait] ++ if s.irqAttached then [.irqRelease s.irqHandle] else [] }) ∧
  ∀ s t : State, s.alive = true → t.alive = true → s.env.event = .detach → t.env = s.env → t.cfg = s.cfg →
    t.trace = s.trace → t.irqAttached = s.irqAttached → (s.irqAttached = true → t.irqHandle = s.irqHandle) →
    step t = step s

/-- R38, R273, R274: while it is not alive the block takes no event but INIT: a command is not taken, and for the rest it
has no step. That the two are told apart so is the model's choice (log 6). -/
def Obligations.DeadBlockTakesOnlyInit : Prop :=
  ∀ s : State, s.alive = false →
    (∀ w, s.env.event = .command w → step s = .refused .commandNotTaken) ∧
    (s.env.event = .workerRun ∨ s.env.event = .irqEdge ∨ s.env.event = .detach → step s = .fault .stuckNotAlive)

/-- R270: the values after reset, at whatever configuration the reset state carries; the initial mode is PowerDown. That
configuration, and that reset means the state after a successful INIT, are the model's choice (logs 2 and 5). -/
def Obligations.ResetValues : Prop :=
  let r := State.reset
  r.opf = r.cfg.opfReset &&& ~~~r.cfg.opfActive ∧ r.intsrs = r.cfg.intsrsReset ∧ r.enabled = false ∧
  r.delay = r.cfg.delayReset ∧ r.debug = false ∧ r.lastZone = r.cfg.lastZoneReset ∧ r.th = r.cfg.thReset ∧
  r.tl = r.cfg.tlReset ∧ r.calRef = 0 ∧ r.pol.toInt = -1 ∧ r.calHighDone = false ∧ r.calLowDone = false ∧
  r.irqAttached = false ∧ r.irqHandle = none ∧ r.pending = false ∧ r.result = 0 ∧ r.status = 0 ∧ r.alive = true ∧
  mode r.cfg r.opf = .powerDown

/-! ### The whole machine -/

/-- R39 (I1, I2), R34, R240, R38: every step keeps the legal states legal. What is called a well-formed configuration
is in part the model's choice (logs 8 and 10). -/
def Obligations.StepKeepsLegalStates : Prop := ∀ s t : State, Inv s → step s = .next t → Inv t

/-- The legal states contain the reset state, at the configuration it carries, which is the model's choice (log 2). -/
def Obligations.ResetIsLegal : Prop := Inv State.reset

/-- R39 (I3), R23, R24: every step of a block that is alive only adds to the trace, keeps the configuration, and leaves
each shadow holding the last byte that an acknowledged one-byte write put in its register, unless the step ends the life
of the block: DETACH loses the shadows with all state (R275), and no other event ends it. -/
def Obligations.ShadowsFollowAcknowledgedWrites : Prop :=
  ∀ s t : State, s.alive = true → step s = .next t →
    (t.alive = true ↔ s.env.event ≠ .detach) ∧ ∃ new, t.trace = s.trace ++ new ∧ t.cfg = s.cfg ∧
      (t.alive = true →
        t.opf = lastWritten s.cfg.addrOpf s.opf new ∧ t.intsrs = lastWritten s.cfg.addrIntsrs s.intsrs new)

/-- R20, the column "written by", with R29 to R38: each element changes only by the commands named there. -/
def Obligations.ElementsHaveTheirWriters : Prop :=
  ∀ (i : Instr) (s t : State), s.cfg.wf = true → exec i s = .next t →
    (t.enabled ≠ s.enabled → i = .enable ∨ i = .disable) ∧
    (t.delay ≠ s.delay → ∃ ms, i = .setdly ms) ∧
    (t.debug ≠ s.debug → ∃ b, i = .setdbg b) ∧
    (t.lastZone ≠ s.lastZone → i = .enable) ∧
    (t.th ≠ s.th → (∃ v, i = .setth v) ∨ i = .calapply1 ∨ i = .calapply2) ∧
    (t.tl ≠ s.tl → (∃ v, i = .settl v) ∨ i = .calapply1 ∨ i = .calapply2) ∧
    (t.calRef ≠ s.calRef → i = .cal ∨ i = .calpass1 ∨ i = .calpass2) ∧
    (t.pol ≠ s.pol → ∃ v, i = .setpol v) ∧
    (t.calHighDone ≠ s.calHighDone → i = .calpass1) ∧
    (t.calLowDone ≠ s.calLowDone → i = .calpass2) ∧
    (t.irqAttached ≠ s.irqAttached ∨ t.irqHandle ≠ s.irqHandle →
      i ∈ [.modePd, .modeMeas, .enable, .disable, .cal, .calpass1, .calpass2]) ∧
    (t.pending ≠ s.pending → i = .enable ∨ i = .disable ∨ ∃ ms, i = .setdly ms) ∧
    (t.opf ≠ s.opf → i ∈ [.modePd, .modeMeas, .modeFuse, .enable, .disable, .cal, .calpass1, .calpass2] ∨
      ∃ v, i = .regwr s.cfg.addrOpf v) ∧
    (t.intsrs ≠ s.intsrs → i ∈ [.setdetPoll, .setdetInt, .enable, .cal, .calpass1, .calpass2] ∨
      ∃ v, i = .regwr s.cfg.addrIntsrs v) ∧
    t.alive = s.alive ∧ t.cfg = s.cfg

/-- R31: no rule but SETDBG and GETDBG reads or writes the debug flag: two blocks that differ only in it do the same, at
every command but these two and at every event. A block that is not alive ends an INIT with the flag at its reset value,
whatever it was, and a DETACH loses it with all state (R275), so neither keeps the difference. -/
def Obligations.DebugFlagHasNoEffect : Prop :=
  (∀ (i : Instr) (s : State) (b : Bool), (∀ v, i ≠ .setdbg v) → i ≠ .getdbg →
    ∃ t, exec i s = .next t ∧ t.debug = s.debug ∧ exec i { s with debug := b } = .next { t with debug := b }) ∧
  ∀ (s : State) (b : Bool),
    (∀ w, s.env.event = .command w → decode w ≠ .ok .getdbg ∧ ∀ v, decode w ≠ .ok (.setdbg v)) →
    (∀ t, step s = .next t →
      (t.alive = true → s.alive = true → t.debug = s.debug ∧ step { s with debug := b } = .next { t with debug := b }) ∧
      (s.alive = false → t.debug = false) ∧
      (s.alive = false ∨ t.alive = false → step { s with debug := b } = .next t)) ∧
    (∀ f, step s = .fault f → step { s with debug := b } = .fault f) ∧
    ∀ f, step s = .refused f → step { s with debug := b } = .refused f

/-- R52 with the rules of each command and event: a command reads and writes only the addresses its rules name
(`commandAccess` lists them command by command), and so does every event (`eventAccess`). -/
def Obligations.CommandsStayWithinTheirRegisters : Prop :=
  (∀ (i : Instr) (s : State), ∃ t new, exec i s = .next t ∧ t.trace = s.trace ++ new ∧
    ∀ x ∈ accesses new, x ∈ commandAccess s.cfg i) ∧
  ∀ s t : State, step s = .next t → ∃ new, t.trace = s.trace ++ new ∧
    ∀ x ∈ accesses new, x ∈ eventAccess s.cfg s.env.event

/-- R16, R17, R241 to R245: every command completes, with status 0, or with result 0 and an error only the commands
named there report. -/
def Obligations.EveryCommandReportsCompletion : Prop :=
  ∀ (i : Instr) (s : State), ∃ t, exec i s = .next t ∧
    (t.status = 0 ∨ (t.result = 0 ∧
      ((t.status = 1 ∧ (i ∈ [.updthr, .modePd, .modeMeas, .modeFuse, .setdetPoll, .setdetInt, .enable, .disable, .chkid] ∨
          (∃ a, i = .regrd a) ∨ ∃ a v, i = .regwr a v)) ∨
        (t.status = 3 ∧ (i = .modeMeas ∨ i = .enable)) ∨
        (t.status = 5 ∧ (i = .cal ∨ i = .calpass1 ∨ i = .calpass2)))))

/-- R261, R247, R248: a step publishes at most one value, and only in a worker run or in ENABLE's forced pass; a worker
run and an edge write neither `S.status` nor `S.result`. -/
def Obligations.OnlySamplePassesPublish : Prop :=
  ∀ s t : State, s.alive = true → step s = .next t →
    (∃ new, t.trace = s.trace ++ new ∧ (published new).length ≤ 1 ∧
      (published new ≠ [] → s.env.event = .workerRun ∨ s.env.event = .command (encode .enable))) ∧
    (s.env.event = .workerRun ∨ s.env.event = .irqEdge → t.status = s.status ∧ t.result = s.result)
end

