-- ==== Sys2Proof/Laws/Assembler.lean ====
section
/-! SUPPORT. What each operand shape of the assembler takes and what it turns away (R81, R82), said once. -/

namespace Sys2Proof.Machine

/-- A line whose mnemonic is a core instruction's. -/
theorem assemble_core {m : List Char} {ops : List AsmOperand} {r : Option Instr} (hc : assembleCore m ops = r)
    (hp : assemblePseudo m ops = none) : assemble { mnemonic := m, operands := ops } = r := by
  simp [assemble, hc, hp]

/-- A line whose mnemonic is a pseudo-instruction's. -/
theorem assemble_pseudo {m : List Char} {ops : List AsmOperand} {r : Option Instr} (hc : assembleCore m ops = none)
    (hp : assemblePseudo m ops = r) : assemble { mnemonic := m, operands := ops } = r := by
  simp [assemble, hc, hp]

theorem asmNone_eq (ops : List AsmOperand) (i : Instr) : asmNone ops i = if ops = [] then some i else none := by
  cases ops <;> simp [asmNone]

theorem asmS16_number (n : Int) (i : Half → Instr) :
    asmS16 [.number n] i = if -32768 ≤ n ∧ n ≤ 32767 then some (i (BitVec.ofInt 16 n)) else none := by
  simp [asmS16, fitsS16]

theorem asmS16_other {ops : List AsmOperand} (i : Half → Instr) (h : ∀ n, ops ≠ [.number n]) : asmS16 ops i = none := by
  unfold asmS16
  split
  · exact absurd rfl (h _)
  · rfl

theorem asmU16_number (n : Int) (i : Half → Instr) :
    asmU16 [.number n] i = if 0 ≤ n ∧ n ≤ 65535 then some (i (BitVec.ofInt 16 n)) else none := by
  simp [asmU16, fitsU16]

theorem asmU16_other {ops : List AsmOperand} (i : Half → Instr) (h : ∀ n, ops ≠ [.number n]) : asmU16 ops i = none := by
  unfold asmU16
  split
  · exact absurd rfl (h _)
  · rfl

theorem asmU8_number (n : Int) (i : Byte → Instr) :
    asmU8 [.number n] i = if 0 ≤ n ∧ n ≤ 255 then some (i (BitVec.ofInt 8 n)) else none := by
  simp [asmU8, fitsU8]

theorem asmU8_other {ops : List AsmOperand} (i : Byte → Instr) (h : ∀ n, ops ≠ [.number n]) : asmU8 ops i = none := by
  unfold asmU8
  split
  · exact absurd rfl (h _)
  · rfl

theorem asmU8U8_numbers (m n : Int) (i : Byte → Byte → Instr) :
    asmU8U8 [.number m, .number n] i =
      if (0 ≤ m ∧ m ≤ 255) ∧ 0 ≤ n ∧ n ≤ 255 then some (i (BitVec.ofInt 8 m) (BitVec.ofInt 8 n)) else none := by
  simp [asmU8U8, fitsU8]

theorem asmU8U8_other {ops : List AsmOperand} (i : Byte → Byte → Instr) (h : ∀ m n, ops ≠ [.number m, .number n]) :
    asmU8U8 ops i = none := by
  unfold asmU8U8
  split
  · exact absurd rfl (h _ _)
  · rfl

theorem asmBit_number (n : Int) (i : Bool → Instr) :
    asmBit [.number n] i = if n = 0 then some (i false) else if n = 1 then some (i true) else none := by
  simp only [asmBit, fitsBit, decide_eq_true_eq]
  by_cases h0 : n = 0
  · simp [h0]
  · by_cases h1 : n = 1
    · simp [h1]
    · simp [h0, h1]

theorem asmBit_other {ops : List AsmOperand} (i : Bool → Instr) (h : ∀ n, ops ≠ [.number n]) : asmBit ops i = none := by
  unfold asmBit
  split
  · exact absurd rfl (h _)
  · rfl

/-- The numbers of a pseudo-instruction, tried in order. -/
theorem asmChoice_cons (n m : Int) (i : Instr) (choices : List (Int × Instr)) :
    asmChoice [.number n] ((m, i) :: choices) = if n = m then some i else asmChoice [.number n] choices := by
  by_cases h : n = m
  · simp [asmChoice, h]
  · have : (m == n) = false := by simpa using Ne.symm h
    simp [asmChoice, h, this]

theorem asmChoice_nil (n : Int) : asmChoice [.number n] [] = none := rfl

theorem asmChoice_other {ops : List AsmOperand} (choices : List (Int × Instr)) (h : ∀ n, ops ≠ [.number n]) :
    asmChoice ops choices = none := by
  unfold asmChoice
  split
  · exact absurd rfl (h _)
  · rfl

/-- The names of a pseudo-instruction, tried in order. -/
theorem asmName_cons (n m : List Char) (i : Instr) (names : List (List Char × Instr)) :
    asmName [.name n] ((m, i) :: names) = if n = m then some i else asmName [.name n] names := by
  by_cases h : n = m
  · simp [asmName, h]
  · have : (m == n) = false := by simpa using Ne.symm h
    simp [asmName, h, this]

theorem asmName_nil (n : List Char) : asmName [.name n] [] = none := rfl

theorem asmName_other {ops : List AsmOperand} (names : List (List Char × Instr)) (h : ∀ n, ops ≠ [.name n]) :
    asmName ops names = none := by
  unfold asmName
  split
  · exact absurd rfl (h _)
  · rfl

end Sys2Proof.Machine
end

