-- ==== Sys2Proof/Laws/Fields.lean ====
section
/-! SUPPORT. What a well-formed configuration gives (R8, R9), and how the fields of the shadowed registers read after
they are written (R12, R25 to R28). -/

namespace Sys2Proof.Machine

/-! ### Bits -/

theorem bits_of_disjoint {m n : Byte} (h : m &&& n = 0) (i : Nat) (hm : m.getLsbD i = true) : n.getLsbD i = false := by
  simpa [hm] using congrArg (fun b : Byte => b.getLsbD i) h

theorem bits_of_inside {e m : Byte} (h : e &&& m = e) (i : Nat) (he : e.getLsbD i = true) : m.getLsbD i = true := by
  simpa [he] using congrArg (fun b : Byte => b.getLsbD i) h

theorem disjoint_symm {m n : Byte} (h : m &&& n = 0) : n &&& m = 0 := by rw [BitVec.and_comm]; exact h

/-- Two bytes are equal if their bits are. -/
theorem byte_ext {a b : Byte} (h : ∀ i, i < 8 → a.getLsbD i = b.getLsbD i) : a = b :=
  BitVec.eq_of_getLsbD_eq fun i hi => h i hi

/-! ### One field -/

theorem field_setField_same (r : Byte) {m e : Byte} (he : e &&& m = e) : field (setField r m e) m = e := by
  refine byte_ext fun i hi => ?_
  have h := bits_of_inside he i
  simp only [field, setField, BitVec.getLsbD_and, BitVec.getLsbD_or, BitVec.getLsbD_not, hi, decide_true, Bool.true_and]
  cases hm : m.getLsbD i <;> cases he : e.getLsbD i <;> simp_all

theorem field_setField_other (r : Byte) {m e n : Byte} (he : e &&& m = e) (hd : m &&& n = 0) :
    field (setField r m e) n = field r n := by
  refine byte_ext fun i hi => ?_
  have h := bits_of_inside he i
  have d := bits_of_disjoint hd i
  simp only [field, setField, BitVec.getLsbD_and, BitVec.getLsbD_or, BitVec.getLsbD_not, hi, decide_true, Bool.true_and]
  cases hm : m.getLsbD i <;> cases he : e.getLsbD i <;> cases hn : n.getLsbD i <;> simp_all

theorem field_setBit_same (r m : Byte) : field (setBit r m) m = m := by
  refine byte_ext fun i hi => ?_
  simp only [field, setBit, BitVec.getLsbD_and, BitVec.getLsbD_or]
  cases m.getLsbD i <;> simp

theorem field_setBit_other (r : Byte) {m n : Byte} (hd : m &&& n = 0) : field (setBit r m) n = field r n := by
  refine byte_ext fun i hi => ?_
  have d := bits_of_disjoint hd i
  simp only [field, setBit, BitVec.getLsbD_and, BitVec.getLsbD_or]
  cases hm : m.getLsbD i <;> cases hn : n.getLsbD i <;> simp_all

theorem field_clearBit_same (r m : Byte) : field (clearBit r m) m = 0 := by
  refine byte_ext fun i hi => ?_
  simp only [field, clearBit, BitVec.getLsbD_and, BitVec.getLsbD_not, hi, decide_true, Bool.true_and]
  cases m.getLsbD i <;> simp

theorem field_clearBit_other (r : Byte) {m n : Byte} (hd : m &&& n = 0) : field (clearBit r m) n = field r n := by
  refine byte_ext fun i hi => ?_
  have d := bits_of_disjoint hd i
  simp only [field, clearBit, BitVec.getLsbD_and, BitVec.getLsbD_not, hi, decide_true, Bool.true_and]
  cases hm : m.getLsbD i <;> cases hn : n.getLsbD i <;> simp_all

theorem oneBitMask_ne_zero {m : Byte} (h : oneBitMask m = true) : m ≠ 0 := by
  rintro rfl
  exact absurd h (by decide)

/-! ### A well-formed configuration -/

/-- R8 and R9, as propositions. -/
structure WellFormedConfig (c : Config) : Prop where
  active : oneBitMask c.opfActive = true
  fuse : oneBitMask c.opfFuse = true
  detBit : oneBitMask c.intsrsDet = true
  activeFuse : c.opfActive &&& c.opfFuse = 0
  activeRes : c.opfActive &&& c.opfResMask = 0
  activeFreq : c.opfActive &&& c.opfFreqMask = 0
  fuseRes : c.opfFuse &&& c.opfResMask = 0
  fuseFreq : c.opfFuse &&& c.opfFreqMask = 0
  resFreq : c.opfResMask &&& c.opfFreqMask = 0
  detType : c.intsrsDet &&& c.intsrsTypeMask = 0
  detSens : c.intsrsDet &&& c.intsrsSensMask = 0
  typeSens : c.intsrsTypeMask &&& c.intsrsSensMask = 0
  res8In : c.res8 &&& c.opfResMask = c.res8
  res10In : c.res10 &&& c.opfResMask = c.res10
  freqIn : c.freq40Hz &&& c.opfFreqMask = c.freq40Hz
  withinIn : c.typeWithin &&& c.intsrsTypeMask = c.typeWithin
  besideIn : c.typeBeside &&& c.intsrsTypeMask = c.typeBeside
  sensIn : c.calSens &&& c.intsrsSensMask = c.calSens
  resCodes : c.res8 ≠ c.res10
  typeCodes : c.typeWithin ≠ c.typeBeside
  addresses : c.writeAddresses.Nodup
  sampleSome : 1 ≤ c.sampleLen
  sampleMost : c.sampleLen ≤ c.maxXfer
  statusIn : c.statusIdx < c.sampleLen
  hiIn : c.hiIdx < c.sampleLen
  loIn : c.loIdx < c.sampleLen
  delay : c.delayMin ≤ c.delayReset
  samples : 1 ≤ c.calN

theorem Config.wf_spec {c : Config} (h : c.wf = true) : WellFormedConfig c := by
  simp only [Config.wf, Config.wfOneBit, Config.wfOpfMasks, Config.wfIntsrsMasks, Config.wfInside, Config.wfDistinctCodes,
    Config.wfAddresses, Config.wfSampleLen, Config.wfSampleIdx, Config.wfDelay, Config.wfCalN, disjointMasks, insideMask,
    Bool.and_eq_true, decide_eq_true_eq] at h
  constructor <;> first | simp only [h] | simp [h]

theorem Config.wf_maxXfer {c : Config} (h : c.wf = true) : 1 ≤ c.maxXfer :=
  Nat.le_trans (wf_spec h).sampleSome (wf_spec h).sampleMost

/-- The eight written registers are pairwise distinct. -/
theorem Config.wf_distinct {c : Config} (h : c.wf = true) :
    c.addrOpf ≠ c.addrIntsrs ∧ c.addrOpf ≠ c.addrSrst ∧ c.addrIntsrs ≠ c.addrSrst ∧
    ∀ a ∈ [c.addrHthH, c.addrHthL, c.addrLthH, c.addrLthL, c.addrLatch],
      a ≠ c.addrOpf ∧ a ≠ c.addrIntsrs ∧ a ≠ c.addrSrst := by
  have d := (wf_spec h).addresses
  simp only [Config.writeAddresses, List.nodup_cons, List.mem_cons, List.not_mem_nil, or_false, not_or] at d
  refine ⟨d.1.1, d.1.2.1, d.2.1.1, fun a ha => ?_⟩
  simp only [List.mem_cons, List.not_mem_nil, or_false] at ha
  rcases ha with rfl | rfl | rfl | rfl | rfl <;>
    exact ⟨fun e => by simp [e] at d, fun e => by simp [e] at d, fun e => by simp [e] at d⟩

/-! ### The two registers -/

theorem irqTypeCode_inside {c : Config} (h : c.wf = true) (t : IrqType) :
    irqTypeCode c t &&& c.intsrsTypeMask = irqTypeCode c t := by
  cases t
  · exact (Config.wf_spec h).withinIn
  · exact (Config.wf_spec h).besideIn

/-- A type that is written is read back (R28, R181). -/
theorem irqType_setField {c : Config} (h : c.wf = true) (r : Byte) (t : IrqType) :
    irqType c (setField r c.intsrsTypeMask (irqTypeCode c t)) = t := by
  rw [irqType, field_setField_same r (irqTypeCode_inside h t)]
  cases t
  · simp [irqTypeCode]
  · simp [irqTypeCode, (Config.wf_spec h).typeCodes.symm]

/-- Writing a type keeps the detection mode. -/
theorem det_setField {c : Config} (h : c.wf = true) (r : Byte) (t : IrqType) :
    det c (setField r c.intsrsTypeMask (irqTypeCode c t)) = det c r := by
  rw [det, field_setField_other r (irqTypeCode_inside h t) (disjoint_symm (Config.wf_spec h).detType), ← det]

theorem det_setBit {c : Config} (h : c.wf = true) (r : Byte) : det c (setBit r c.intsrsDet) = .interrupt := by
  rw [det, field_setBit_same, if_pos (oneBitMask_ne_zero (Config.wf_spec h).detBit)]

theorem det_clearBit (c : Config) (r : Byte) : det c (clearBit r c.intsrsDet) = .polling := by
  simp [det, field_clearBit_same]

/-- Setting the detection bit keeps the type. -/
theorem irqType_setBit {c : Config} (h : c.wf = true) (r : Byte) : irqType c (setBit r c.intsrsDet) = irqType c r := by
  rw [irqType, field_setBit_other r (Config.wf_spec h).detType, ← irqType]

/-- INTSRS with the type of a zone reads as that type, in the same detection mode (R145, R190). -/
theorem intsrsFor_spec {s : State} (h : s.cfg.wf = true) (z : Zone) :
    irqType s.cfg (intsrsFor s z) = typeFor z ∧ det s.cfg (intsrsFor s z) = det s.cfg s.intsrs := by
  unfold intsrsFor
  split
  · exact ⟨‹_›, rfl⟩
  · exact ⟨irqType_setField h _ _, det_setField h _ _⟩

/-- Entering Measurement keeps the resolution (R141). -/
theorem resolution_measuringOpf {s : State} (h : s.cfg.wf = true) :
    resolution s.cfg (measuringOpf s) = resolution s.cfg s.opf := by
  have w := Config.wf_spec h
  show resolution s.cfg (setBit (clearBit s.opf s.cfg.opfFuse) s.cfg.opfActive) = _
  simp only [resolution, field_setBit_other _ w.activeRes, field_clearBit_other _ w.fuseRes]

/-- Step 3 of a calibration keeps the resolution (R210). -/
theorem resolution_calOpf {s : State} (h : s.cfg.wf = true) :
    resolution s.cfg (calOpf s) = resolution s.cfg s.opf := by
  have w := Config.wf_spec h
  show resolution s.cfg (setBit (clearBit (setField s.opf s.cfg.opfFreqMask s.cfg.freq40Hz) s.cfg.opfFuse)
    s.cfg.opfActive) = _
  simp only [resolution, field_setBit_other _ w.activeRes, field_clearBit_other _ w.fuseRes,
    field_setField_other _ w.freqIn (disjoint_symm w.resFreq)]

/-- A calibration's restore writes OPF as Measurement makes it of the value saved, if the value it finds differs from
that one only in the frequency, the resolution and the two mode bits (R210). -/
theorem restoredOpf_eq (c : Config) {now saved : Byte}
    (h : ∀ i, c.opfActive.getLsbD i = false → c.opfFuse.getLsbD i = false → c.opfResMask.getLsbD i = false →
      c.opfFreqMask.getLsbD i = false → now.getLsbD i = saved.getLsbD i) :
    restoredOpf c now saved = setBit (clearBit saved c.opfFuse) c.opfActive := by
  refine byte_ext fun i hi => ?_
  have h := h i
  simp only [restoredOpf, setBit, clearBit, setField, field, BitVec.getLsbD_and, BitVec.getLsbD_or, BitVec.getLsbD_not, hi,
    decide_true, Bool.true_and]
  cases ha : c.opfActive.getLsbD i <;> cases hf : c.opfFuse.getLsbD i <;> cases hr : c.opfResMask.getLsbD i <;>
    cases hq : c.opfFreqMask.getLsbD i <;> simp_all

theorem restoredOpf_untouched (s : State) : restoredOpf s.cfg s.opf s.opf = measuringOpf s :=
  restoredOpf_eq s.cfg fun _ _ _ _ _ => rfl

theorem restoredOpf_off (s : State) : restoredOpf s.cfg (offOpf s) s.opf = measuringOpf s :=
  restoredOpf_eq s.cfg fun i ha _ _ _ => by
    simp only [offOpf, BitVec.getLsbD_and, BitVec.getLsbD_not, ha]
    by_cases hi : i < 8
    · simp [hi]
    · simp [BitVec.getLsbD_of_ge s.opf i (by omega)]

theorem restoredOpf_cal {s : State} (h : s.cfg.wf = true) : restoredOpf s.cfg (calOpf s) s.opf = measuringOpf s :=
  restoredOpf_eq s.cfg fun i ha hf _ hq => by
    have e : s.cfg.freq40Hz.getLsbD i = false := by
      cases he : s.cfg.freq40Hz.getLsbD i
      · rfl
      · rw [bits_of_inside (Config.wf_spec h).freqIn i he] at hq; exact absurd hq (by simp)
    simp only [calOpf, BitVec.getLsbD_and, BitVec.getLsbD_or, BitVec.getLsbD_not, ha, hf, hq, e]
    by_cases hi : i < 8
    · simp [hi]
    · simp [BitVec.getLsbD_of_ge s.opf i (by omega)]

/-! ### The writes the statements name are those the operations make -/

/-- A threshold update makes the writes of the type in force (R182). -/
theorem thresholdWrites_eq (s : State) : thresholdWrites s = programmingWrites s (irqType s.cfg s.intsrs) := by
  unfold thresholdWrites programmingWrites highOffset lowOffset
  cases irqType s.cfg s.intsrs <;> simp [sub_eq_add_neg]

theorem programmingWrites_elsewhere {s : State} (h : s.cfg.wf = true) (t : IrqType) : ∀ w ∈ programmingWrites s t,
    w.1 ≠ s.cfg.addrOpf ∧ w.1 ≠ s.cfg.addrIntsrs ∧ w.1 ≠ s.cfg.addrSrst := by
  intro w hw
  refine (Config.wf_distinct h).2.2.2 w.1 ?_
  simp only [programmingWrites, List.mem_cons, List.not_mem_nil, or_false] at hw
  rcases hw with rfl | rfl | rfl | rfl | rfl <;> simp

end Sys2Proof.Machine
end

