-- ==== Sys2Proof/Laws/State.lean ====
section
/-! SUPPORT. One lemma per field per named update of the state, so that no proof unfolds an update. -/

namespace Sys2Proof.Machine

/-! ### emit -/

@[simp] theorem State.emit_opf (s : State) (x : Emitted) : (s.emit x).opf = s.opf := rfl
@[simp] theorem State.emit_intsrs (s : State) (x : Emitted) : (s.emit x).intsrs = s.intsrs := rfl
@[simp] theorem State.emit_enabled (s : State) (x : Emitted) : (s.emit x).enabled = s.enabled := rfl
@[simp] theorem State.emit_delay (s : State) (x : Emitted) : (s.emit x).delay = s.delay := rfl
@[simp] theorem State.emit_debug (s : State) (x : Emitted) : (s.emit x).debug = s.debug := rfl
@[simp] theorem State.emit_lastZone (s : State) (x : Emitted) : (s.emit x).lastZone = s.lastZone := rfl
@[simp] theorem State.emit_th (s : State) (x : Emitted) : (s.emit x).th = s.th := rfl
@[simp] theorem State.emit_tl (s : State) (x : Emitted) : (s.emit x).tl = s.tl := rfl
@[simp] theorem State.emit_calRef (s : State) (x : Emitted) : (s.emit x).calRef = s.calRef := rfl
@[simp] theorem State.emit_pol (s : State) (x : Emitted) : (s.emit x).pol = s.pol := rfl
@[simp] theorem State.emit_calHighDone (s : State) (x : Emitted) : (s.emit x).calHighDone = s.calHighDone := rfl
@[simp] theorem State.emit_calLowDone (s : State) (x : Emitted) : (s.emit x).calLowDone = s.calLowDone := rfl
@[simp] theorem State.emit_irqAttached (s : State) (x : Emitted) : (s.emit x).irqAttached = s.irqAttached := rfl
@[simp] theorem State.emit_irqHandle (s : State) (x : Emitted) : (s.emit x).irqHandle = s.irqHandle := rfl
@[simp] theorem State.emit_pending (s : State) (x : Emitted) : (s.emit x).pending = s.pending := rfl
@[simp] theorem State.emit_result (s : State) (x : Emitted) : (s.emit x).result = s.result := rfl
@[simp] theorem State.emit_status (s : State) (x : Emitted) : (s.emit x).status = s.status := rfl
@[simp] theorem State.emit_alive (s : State) (x : Emitted) : (s.emit x).alive = s.alive := rfl
@[simp] theorem State.emit_cfg (s : State) (x : Emitted) : (s.emit x).cfg = s.cfg := rfl
@[simp] theorem State.emit_env (s : State) (x : Emitted) : (s.emit x).env = s.env := rfl
@[simp] theorem State.emit_trace (s : State) (x : Emitted) : (s.emit x).trace = s.trace ++ [x] := rfl

/-! ### wait -/

@[simp] theorem State.wait_opf (s : State) (ms : Nat) : (s.wait ms).opf = s.opf := rfl
@[simp] theorem State.wait_intsrs (s : State) (ms : Nat) : (s.wait ms).intsrs = s.intsrs := rfl
@[simp] theorem State.wait_enabled (s : State) (ms : Nat) : (s.wait ms).enabled = s.enabled := rfl
@[simp] theorem State.wait_delay (s : State) (ms : Nat) : (s.wait ms).delay = s.delay := rfl
@[simp] theorem State.wait_debug (s : State) (ms : Nat) : (s.wait ms).debug = s.debug := rfl
@[simp] theorem State.wait_lastZone (s : State) (ms : Nat) : (s.wait ms).lastZone = s.lastZone := rfl
@[simp] theorem State.wait_th (s : State) (ms : Nat) : (s.wait ms).th = s.th := rfl
@[simp] theorem State.wait_tl (s : State) (ms : Nat) : (s.wait ms).tl = s.tl := rfl
@[simp] theorem State.wait_calRef (s : State) (ms : Nat) : (s.wait ms).calRef = s.calRef := rfl
@[simp] theorem State.wait_pol (s : State) (ms : Nat) : (s.wait ms).pol = s.pol := rfl
@[simp] theorem State.wait_calHighDone (s : State) (ms : Nat) : (s.wait ms).calHighDone = s.calHighDone := rfl
@[simp] theorem State.wait_calLowDone (s : State) (ms : Nat) : (s.wait ms).calLowDone = s.calLowDone := rfl
@[simp] theorem State.wait_irqAttached (s : State) (ms : Nat) : (s.wait ms).irqAttached = s.irqAttached := rfl
@[simp] theorem State.wait_irqHandle (s : State) (ms : Nat) : (s.wait ms).irqHandle = s.irqHandle := rfl
@[simp] theorem State.wait_pending (s : State) (ms : Nat) : (s.wait ms).pending = s.pending := rfl
@[simp] theorem State.wait_result (s : State) (ms : Nat) : (s.wait ms).result = s.result := rfl
@[simp] theorem State.wait_status (s : State) (ms : Nat) : (s.wait ms).status = s.status := rfl
@[simp] theorem State.wait_alive (s : State) (ms : Nat) : (s.wait ms).alive = s.alive := rfl
@[simp] theorem State.wait_cfg (s : State) (ms : Nat) : (s.wait ms).cfg = s.cfg := rfl
@[simp] theorem State.wait_env (s : State) (ms : Nat) : (s.wait ms).env = s.env := rfl
@[simp] theorem State.wait_trace (s : State) (ms : Nat) : (s.wait ms).trace = s.trace ++ [.wait ms] := rfl

/-! ### publish -/

@[simp] theorem State.publish_opf (s : State) (v : Int) : (s.publish v).opf = s.opf := rfl
@[simp] theorem State.publish_intsrs (s : State) (v : Int) : (s.publish v).intsrs = s.intsrs := rfl
@[simp] theorem State.publish_enabled (s : State) (v : Int) : (s.publish v).enabled = s.enabled := rfl
@[simp] theorem State.publish_delay (s : State) (v : Int) : (s.publish v).delay = s.delay := rfl
@[simp] theorem State.publish_debug (s : State) (v : Int) : (s.publish v).debug = s.debug := rfl
@[simp] theorem State.publish_lastZone (s : State) (v : Int) : (s.publish v).lastZone = s.lastZone := rfl
@[simp] theorem State.publish_th (s : State) (v : Int) : (s.publish v).th = s.th := rfl
@[simp] theorem State.publish_tl (s : State) (v : Int) : (s.publish v).tl = s.tl := rfl
@[simp] theorem State.publish_calRef (s : State) (v : Int) : (s.publish v).calRef = s.calRef := rfl
@[simp] theorem State.publish_pol (s : State) (v : Int) : (s.publish v).pol = s.pol := rfl
@[simp] theorem State.publish_calHighDone (s : State) (v : Int) : (s.publish v).calHighDone = s.calHighDone := rfl
@[simp] theorem State.publish_calLowDone (s : State) (v : Int) : (s.publish v).calLowDone = s.calLowDone := rfl
@[simp] theorem State.publish_irqAttached (s : State) (v : Int) : (s.publish v).irqAttached = s.irqAttached := rfl
@[simp] theorem State.publish_irqHandle (s : State) (v : Int) : (s.publish v).irqHandle = s.irqHandle := rfl
@[simp] theorem State.publish_pending (s : State) (v : Int) : (s.publish v).pending = s.pending := rfl
@[simp] theorem State.publish_result (s : State) (v : Int) : (s.publish v).result = s.result := rfl
@[simp] theorem State.publish_status (s : State) (v : Int) : (s.publish v).status = s.status := rfl
@[simp] theorem State.publish_alive (s : State) (v : Int) : (s.publish v).alive = s.alive := rfl
@[simp] theorem State.publish_cfg (s : State) (v : Int) : (s.publish v).cfg = s.cfg := rfl
@[simp] theorem State.publish_env (s : State) (v : Int) : (s.publish v).env = s.env := rfl
@[simp] theorem State.publish_trace (s : State) (v : Int) : (s.publish v).trace = s.trace ++ [.publish v] := rfl

/-! ### log -/

@[simp] theorem State.log_opf (s : State) (e : Err) : (s.log e).opf = s.opf := rfl
@[simp] theorem State.log_intsrs (s : State) (e : Err) : (s.log e).intsrs = s.intsrs := rfl
@[simp] theorem State.log_enabled (s : State) (e : Err) : (s.log e).enabled = s.enabled := rfl
@[simp] theorem State.log_delay (s : State) (e : Err) : (s.log e).delay = s.delay := rfl
@[simp] theorem State.log_debug (s : State) (e : Err) : (s.log e).debug = s.debug := rfl
@[simp] theorem State.log_lastZone (s : State) (e : Err) : (s.log e).lastZone = s.lastZone := rfl
@[simp] theorem State.log_th (s : State) (e : Err) : (s.log e).th = s.th := rfl
@[simp] theorem State.log_tl (s : State) (e : Err) : (s.log e).tl = s.tl := rfl
@[simp] theorem State.log_calRef (s : State) (e : Err) : (s.log e).calRef = s.calRef := rfl
@[simp] theorem State.log_pol (s : State) (e : Err) : (s.log e).pol = s.pol := rfl
@[simp] theorem State.log_calHighDone (s : State) (e : Err) : (s.log e).calHighDone = s.calHighDone := rfl
@[simp] theorem State.log_calLowDone (s : State) (e : Err) : (s.log e).calLowDone = s.calLowDone := rfl
@[simp] theorem State.log_irqAttached (s : State) (e : Err) : (s.log e).irqAttached = s.irqAttached := rfl
@[simp] theorem State.log_irqHandle (s : State) (e : Err) : (s.log e).irqHandle = s.irqHandle := rfl
@[simp] theorem State.log_pending (s : State) (e : Err) : (s.log e).pending = s.pending := rfl
@[simp] theorem State.log_result (s : State) (e : Err) : (s.log e).result = s.result := rfl
@[simp] theorem State.log_status (s : State) (e : Err) : (s.log e).status = s.status := rfl
@[simp] theorem State.log_alive (s : State) (e : Err) : (s.log e).alive = s.alive := rfl
@[simp] theorem State.log_cfg (s : State) (e : Err) : (s.log e).cfg = s.cfg := rfl
@[simp] theorem State.log_env (s : State) (e : Err) : (s.log e).env = s.env := rfl
@[simp] theorem State.log_trace (s : State) (e : Err) : (s.log e).trace = s.trace ++ [.log e.code] := rfl

/-! ### schedule -/

@[simp] theorem State.schedule_opf (s : State) (ms : Nat) : (s.schedule ms).opf = s.opf := rfl
@[simp] theorem State.schedule_intsrs (s : State) (ms : Nat) : (s.schedule ms).intsrs = s.intsrs := rfl
@[simp] theorem State.schedule_enabled (s : State) (ms : Nat) : (s.schedule ms).enabled = s.enabled := rfl
@[simp] theorem State.schedule_delay (s : State) (ms : Nat) : (s.schedule ms).delay = s.delay := rfl
@[simp] theorem State.schedule_debug (s : State) (ms : Nat) : (s.schedule ms).debug = s.debug := rfl
@[simp] theorem State.schedule_lastZone (s : State) (ms : Nat) : (s.schedule ms).lastZone = s.lastZone := rfl
@[simp] theorem State.schedule_th (s : State) (ms : Nat) : (s.schedule ms).th = s.th := rfl
@[simp] theorem State.schedule_tl (s : State) (ms : Nat) : (s.schedule ms).tl = s.tl := rfl
@[simp] theorem State.schedule_calRef (s : State) (ms : Nat) : (s.schedule ms).calRef = s.calRef := rfl
@[simp] theorem State.schedule_pol (s : State) (ms : Nat) : (s.schedule ms).pol = s.pol := rfl
@[simp] theorem State.schedule_calHighDone (s : State) (ms : Nat) : (s.schedule ms).calHighDone = s.calHighDone := rfl
@[simp] theorem State.schedule_calLowDone (s : State) (ms : Nat) : (s.schedule ms).calLowDone = s.calLowDone := rfl
@[simp] theorem State.schedule_irqAttached (s : State) (ms : Nat) : (s.schedule ms).irqAttached = s.irqAttached := rfl
@[simp] theorem State.schedule_irqHandle (s : State) (ms : Nat) : (s.schedule ms).irqHandle = s.irqHandle := rfl
@[simp] theorem State.schedule_pending (s : State) (ms : Nat) : (s.schedule ms).pending = true := rfl
@[simp] theorem State.schedule_result (s : State) (ms : Nat) : (s.schedule ms).result = s.result := rfl
@[simp] theorem State.schedule_status (s : State) (ms : Nat) : (s.schedule ms).status = s.status := rfl
@[simp] theorem State.schedule_alive (s : State) (ms : Nat) : (s.schedule ms).alive = s.alive := rfl
@[simp] theorem State.schedule_cfg (s : State) (ms : Nat) : (s.schedule ms).cfg = s.cfg := rfl
@[simp] theorem State.schedule_env (s : State) (ms : Nat) : (s.schedule ms).env = s.env := rfl
@[simp] theorem State.schedule_trace (s : State) (ms : Nat) : (s.schedule ms).trace = s.trace ++ [.schedule ms] := rfl

/-! ### cancelAndWait -/

@[simp] theorem State.cancelAndWait_opf (s : State) : (s.cancelAndWait).opf = s.opf := rfl
@[simp] theorem State.cancelAndWait_intsrs (s : State) : (s.cancelAndWait).intsrs = s.intsrs := rfl
@[simp] theorem State.cancelAndWait_enabled (s : State) : (s.cancelAndWait).enabled = s.enabled := rfl
@[simp] theorem State.cancelAndWait_delay (s : State) : (s.cancelAndWait).delay = s.delay := rfl
@[simp] theorem State.cancelAndWait_debug (s : State) : (s.cancelAndWait).debug = s.debug := rfl
@[simp] theorem State.cancelAndWait_lastZone (s : State) : (s.cancelAndWait).lastZone = s.lastZone := rfl
@[simp] theorem State.cancelAndWait_th (s : State) : (s.cancelAndWait).th = s.th := rfl
@[simp] theorem State.cancelAndWait_tl (s : State) : (s.cancelAndWait).tl = s.tl := rfl
@[simp] theorem State.cancelAndWait_calRef (s : State) : (s.cancelAndWait).calRef = s.calRef := rfl
@[simp] theorem State.cancelAndWait_pol (s : State) : (s.cancelAndWait).pol = s.pol := rfl
@[simp] theorem State.cancelAndWait_calHighDone (s : State) : (s.cancelAndWait).calHighDone = s.calHighDone := rfl
@[simp] theorem State.cancelAndWait_calLowDone (s : State) : (s.cancelAndWait).calLowDone = s.calLowDone := rfl
@[simp] theorem State.cancelAndWait_irqAttached (s : State) : (s.cancelAndWait).irqAttached = s.irqAttached := rfl
@[simp] theorem State.cancelAndWait_irqHandle (s : State) : (s.cancelAndWait).irqHandle = s.irqHandle := rfl
@[simp] theorem State.cancelAndWait_pending (s : State) : (s.cancelAndWait).pending = false := rfl
@[simp] theorem State.cancelAndWait_result (s : State) : (s.cancelAndWait).result = s.result := rfl
@[simp] theorem State.cancelAndWait_status (s : State) : (s.cancelAndWait).status = s.status := rfl
@[simp] theorem State.cancelAndWait_alive (s : State) : (s.cancelAndWait).alive = s.alive := rfl
@[simp] theorem State.cancelAndWait_cfg (s : State) : (s.cancelAndWait).cfg = s.cfg := rfl
@[simp] theorem State.cancelAndWait_env (s : State) : (s.cancelAndWait).env = s.env := rfl
@[simp] theorem State.cancelAndWait_trace (s : State) : (s.cancelAndWait).trace = s.trace ++ [.cancelAndWait] := rfl

/-! ### raise -/

@[simp] theorem State.raise_opf (s : State) (e : Err) : (s.raise e).opf = s.opf := rfl
@[simp] theorem State.raise_intsrs (s : State) (e : Err) : (s.raise e).intsrs = s.intsrs := rfl
@[simp] theorem State.raise_enabled (s : State) (e : Err) : (s.raise e).enabled = s.enabled := rfl
@[simp] theorem State.raise_delay (s : State) (e : Err) : (s.raise e).delay = s.delay := rfl
@[simp] theorem State.raise_debug (s : State) (e : Err) : (s.raise e).debug = s.debug := rfl
@[simp] theorem State.raise_lastZone (s : State) (e : Err) : (s.raise e).lastZone = s.lastZone := rfl
@[simp] theorem State.raise_th (s : State) (e : Err) : (s.raise e).th = s.th := rfl
@[simp] theorem State.raise_tl (s : State) (e : Err) : (s.raise e).tl = s.tl := rfl
@[simp] theorem State.raise_calRef (s : State) (e : Err) : (s.raise e).calRef = s.calRef := rfl
@[simp] theorem State.raise_pol (s : State) (e : Err) : (s.raise e).pol = s.pol := rfl
@[simp] theorem State.raise_calHighDone (s : State) (e : Err) : (s.raise e).calHighDone = s.calHighDone := rfl
@[simp] theorem State.raise_calLowDone (s : State) (e : Err) : (s.raise e).calLowDone = s.calLowDone := rfl
@[simp] theorem State.raise_irqAttached (s : State) (e : Err) : (s.raise e).irqAttached = s.irqAttached := rfl
@[simp] theorem State.raise_irqHandle (s : State) (e : Err) : (s.raise e).irqHandle = s.irqHandle := rfl
@[simp] theorem State.raise_pending (s : State) (e : Err) : (s.raise e).pending = s.pending := rfl
@[simp] theorem State.raise_result (s : State) (e : Err) : (s.raise e).result = 0 := rfl
@[simp] theorem State.raise_status (s : State) (e : Err) : (s.raise e).status = e.code := rfl
@[simp] theorem State.raise_alive (s : State) (e : Err) : (s.raise e).alive = s.alive := rfl
@[simp] theorem State.raise_cfg (s : State) (e : Err) : (s.raise e).cfg = s.cfg := rfl
@[simp] theorem State.raise_env (s : State) (e : Err) : (s.raise e).env = s.env := rfl
@[simp] theorem State.raise_trace (s : State) (e : Err) : (s.raise e).trace = s.trace := rfl

/-! ### complete -/

@[simp] theorem State.complete_opf (s : State) (v : Word) : (s.complete v).opf = s.opf := rfl
@[simp] theorem State.complete_intsrs (s : State) (v : Word) : (s.complete v).intsrs = s.intsrs := rfl
@[simp] theorem State.complete_enabled (s : State) (v : Word) : (s.complete v).enabled = s.enabled := rfl
@[simp] theorem State.complete_delay (s : State) (v : Word) : (s.complete v).delay = s.delay := rfl
@[simp] theorem State.complete_debug (s : State) (v : Word) : (s.complete v).debug = s.debug := rfl
@[simp] theorem State.complete_lastZone (s : State) (v : Word) : (s.complete v).lastZone = s.lastZone := rfl
@[simp] theorem State.complete_th (s : State) (v : Word) : (s.complete v).th = s.th := rfl
@[simp] theorem State.complete_tl (s : State) (v : Word) : (s.complete v).tl = s.tl := rfl
@[simp] theorem State.complete_calRef (s : State) (v : Word) : (s.complete v).calRef = s.calRef := rfl
@[simp] theorem State.complete_pol (s : State) (v : Word) : (s.complete v).pol = s.pol := rfl
@[simp] theorem State.complete_calHighDone (s : State) (v : Word) : (s.complete v).calHighDone = s.calHighDone := rfl
@[simp] theorem State.complete_calLowDone (s : State) (v : Word) : (s.complete v).calLowDone = s.calLowDone := rfl
@[simp] theorem State.complete_irqAttached (s : State) (v : Word) : (s.complete v).irqAttached = s.irqAttached := rfl
@[simp] theorem State.complete_irqHandle (s : State) (v : Word) : (s.complete v).irqHandle = s.irqHandle := rfl
@[simp] theorem State.complete_pending (s : State) (v : Word) : (s.complete v).pending = s.pending := rfl
@[simp] theorem State.complete_result (s : State) (v : Word) : (s.complete v).result = v := rfl
@[simp] theorem State.complete_status (s : State) (v : Word) : (s.complete v).status = 0 := rfl
@[simp] theorem State.complete_alive (s : State) (v : Word) : (s.complete v).alive = s.alive := rfl
@[simp] theorem State.complete_cfg (s : State) (v : Word) : (s.complete v).cfg = s.cfg := rfl
@[simp] theorem State.complete_env (s : State) (v : Word) : (s.complete v).env = s.env := rfl
@[simp] theorem State.complete_trace (s : State) (v : Word) : (s.complete v).trace = s.trace := rfl

/-! ### dropEvent -/

@[simp] theorem State.dropEvent_opf (s : State) : (s.dropEvent).opf = s.opf := rfl
@[simp] theorem State.dropEvent_intsrs (s : State) : (s.dropEvent).intsrs = s.intsrs := rfl
@[simp] theorem State.dropEvent_enabled (s : State) : (s.dropEvent).enabled = s.enabled := rfl
@[simp] theorem State.dropEvent_delay (s : State) : (s.dropEvent).delay = s.delay := rfl
@[simp] theorem State.dropEvent_debug (s : State) : (s.dropEvent).debug = s.debug := rfl
@[simp] theorem State.dropEvent_lastZone (s : State) : (s.dropEvent).lastZone = s.lastZone := rfl
@[simp] theorem State.dropEvent_th (s : State) : (s.dropEvent).th = s.th := rfl
@[simp] theorem State.dropEvent_tl (s : State) : (s.dropEvent).tl = s.tl := rfl
@[simp] theorem State.dropEvent_calRef (s : State) : (s.dropEvent).calRef = s.calRef := rfl
@[simp] theorem State.dropEvent_pol (s : State) : (s.dropEvent).pol = s.pol := rfl
@[simp] theorem State.dropEvent_calHighDone (s : State) : (s.dropEvent).calHighDone = s.calHighDone := rfl
@[simp] theorem State.dropEvent_calLowDone (s : State) : (s.dropEvent).calLowDone = s.calLowDone := rfl
@[simp] theorem State.dropEvent_irqAttached (s : State) : (s.dropEvent).irqAttached = s.irqAttached := rfl
@[simp] theorem State.dropEvent_irqHandle (s : State) : (s.dropEvent).irqHandle = s.irqHandle := rfl
@[simp] theorem State.dropEvent_pending (s : State) : (s.dropEvent).pending = s.pending := rfl
@[simp] theorem State.dropEvent_result (s : State) : (s.dropEvent).result = s.result := rfl
@[simp] theorem State.dropEvent_status (s : State) : (s.dropEvent).status = s.status := rfl
@[simp] theorem State.dropEvent_alive (s : State) : (s.dropEvent).alive = s.alive := rfl
@[simp] theorem State.dropEvent_cfg (s : State) : (s.dropEvent).cfg = s.cfg := rfl
@[simp] theorem State.dropEvent_env (s : State) : (s.dropEvent).env = s.env.popEvent := rfl
@[simp] theorem State.dropEvent_trace (s : State) : (s.dropEvent).trace = s.trace := rfl

/-! ### dropAck -/

@[simp] theorem State.dropAck_opf (s : State) : (s.dropAck).opf = s.opf := rfl
@[simp] theorem State.dropAck_intsrs (s : State) : (s.dropAck).intsrs = s.intsrs := rfl
@[simp] theorem State.dropAck_enabled (s : State) : (s.dropAck).enabled = s.enabled := rfl
@[simp] theorem State.dropAck_delay (s : State) : (s.dropAck).delay = s.delay := rfl
@[simp] theorem State.dropAck_debug (s : State) : (s.dropAck).debug = s.debug := rfl
@[simp] theorem State.dropAck_lastZone (s : State) : (s.dropAck).lastZone = s.lastZone := rfl
@[simp] theorem State.dropAck_th (s : State) : (s.dropAck).th = s.th := rfl
@[simp] theorem State.dropAck_tl (s : State) : (s.dropAck).tl = s.tl := rfl
@[simp] theorem State.dropAck_calRef (s : State) : (s.dropAck).calRef = s.calRef := rfl
@[simp] theorem State.dropAck_pol (s : State) : (s.dropAck).pol = s.pol := rfl
@[simp] theorem State.dropAck_calHighDone (s : State) : (s.dropAck).calHighDone = s.calHighDone := rfl
@[simp] theorem State.dropAck_calLowDone (s : State) : (s.dropAck).calLowDone = s.calLowDone := rfl
@[simp] theorem State.dropAck_irqAttached (s : State) : (s.dropAck).irqAttached = s.irqAttached := rfl
@[simp] theorem State.dropAck_irqHandle (s : State) : (s.dropAck).irqHandle = s.irqHandle := rfl
@[simp] theorem State.dropAck_pending (s : State) : (s.dropAck).pending = s.pending := rfl
@[simp] theorem State.dropAck_result (s : State) : (s.dropAck).result = s.result := rfl
@[simp] theorem State.dropAck_status (s : State) : (s.dropAck).status = s.status := rfl
@[simp] theorem State.dropAck_alive (s : State) : (s.dropAck).alive = s.alive := rfl
@[simp] theorem State.dropAck_cfg (s : State) : (s.dropAck).cfg = s.cfg := rfl
@[simp] theorem State.dropAck_env (s : State) : (s.dropAck).env = s.env.popAck := rfl
@[simp] theorem State.dropAck_trace (s : State) : (s.dropAck).trace = s.trace := rfl

/-! ### dropBytes -/

@[simp] theorem State.dropBytes_opf (s : State) (n : Nat) : (s.dropBytes n).opf = s.opf := rfl
@[simp] theorem State.dropBytes_intsrs (s : State) (n : Nat) : (s.dropBytes n).intsrs = s.intsrs := rfl
@[simp] theorem State.dropBytes_enabled (s : State) (n : Nat) : (s.dropBytes n).enabled = s.enabled := rfl
@[simp] theorem State.dropBytes_delay (s : State) (n : Nat) : (s.dropBytes n).delay = s.delay := rfl
@[simp] theorem State.dropBytes_debug (s : State) (n : Nat) : (s.dropBytes n).debug = s.debug := rfl
@[simp] theorem State.dropBytes_lastZone (s : State) (n : Nat) : (s.dropBytes n).lastZone = s.lastZone := rfl
@[simp] theorem State.dropBytes_th (s : State) (n : Nat) : (s.dropBytes n).th = s.th := rfl
@[simp] theorem State.dropBytes_tl (s : State) (n : Nat) : (s.dropBytes n).tl = s.tl := rfl
@[simp] theorem State.dropBytes_calRef (s : State) (n : Nat) : (s.dropBytes n).calRef = s.calRef := rfl
@[simp] theorem State.dropBytes_pol (s : State) (n : Nat) : (s.dropBytes n).pol = s.pol := rfl
@[simp] theorem State.dropBytes_calHighDone (s : State) (n : Nat) : (s.dropBytes n).calHighDone = s.calHighDone := rfl
@[simp] theorem State.dropBytes_calLowDone (s : State) (n : Nat) : (s.dropBytes n).calLowDone = s.calLowDone := rfl
@[simp] theorem State.dropBytes_irqAttached (s : State) (n : Nat) : (s.dropBytes n).irqAttached = s.irqAttached := rfl
@[simp] theorem State.dropBytes_irqHandle (s : State) (n : Nat) : (s.dropBytes n).irqHandle = s.irqHandle := rfl
@[simp] theorem State.dropBytes_pending (s : State) (n : Nat) : (s.dropBytes n).pending = s.pending := rfl
@[simp] theorem State.dropBytes_result (s : State) (n : Nat) : (s.dropBytes n).result = s.result := rfl
@[simp] theorem State.dropBytes_status (s : State) (n : Nat) : (s.dropBytes n).status = s.status := rfl
@[simp] theorem State.dropBytes_alive (s : State) (n : Nat) : (s.dropBytes n).alive = s.alive := rfl
@[simp] theorem State.dropBytes_cfg (s : State) (n : Nat) : (s.dropBytes n).cfg = s.cfg := rfl
@[simp] theorem State.dropBytes_env (s : State) (n : Nat) : (s.dropBytes n).env = s.env.popBytes n := rfl
@[simp] theorem State.dropBytes_trace (s : State) (n : Nat) : (s.dropBytes n).trace = s.trace := rfl

/-! ### dropGrant -/

@[simp] theorem State.dropGrant_opf (s : State) : (s.dropGrant).opf = s.opf := rfl
@[simp] theorem State.dropGrant_intsrs (s : State) : (s.dropGrant).intsrs = s.intsrs := rfl
@[simp] theorem State.dropGrant_enabled (s : State) : (s.dropGrant).enabled = s.enabled := rfl
@[simp] theorem State.dropGrant_delay (s : State) : (s.dropGrant).delay = s.delay := rfl
@[simp] theorem State.dropGrant_debug (s : State) : (s.dropGrant).debug = s.debug := rfl
@[simp] theorem State.dropGrant_lastZone (s : State) : (s.dropGrant).lastZone = s.lastZone := rfl
@[simp] theorem State.dropGrant_th (s : State) : (s.dropGrant).th = s.th := rfl
@[simp] theorem State.dropGrant_tl (s : State) : (s.dropGrant).tl = s.tl := rfl
@[simp] theorem State.dropGrant_calRef (s : State) : (s.dropGrant).calRef = s.calRef := rfl
@[simp] theorem State.dropGrant_pol (s : State) : (s.dropGrant).pol = s.pol := rfl
@[simp] theorem State.dropGrant_calHighDone (s : State) : (s.dropGrant).calHighDone = s.calHighDone := rfl
@[simp] theorem State.dropGrant_calLowDone (s : State) : (s.dropGrant).calLowDone = s.calLowDone := rfl
@[simp] theorem State.dropGrant_irqAttached (s : State) : (s.dropGrant).irqAttached = s.irqAttached := rfl
@[simp] theorem State.dropGrant_irqHandle (s : State) : (s.dropGrant).irqHandle = s.irqHandle := rfl
@[simp] theorem State.dropGrant_pending (s : State) : (s.dropGrant).pending = s.pending := rfl
@[simp] theorem State.dropGrant_result (s : State) : (s.dropGrant).result = s.result := rfl
@[simp] theorem State.dropGrant_status (s : State) : (s.dropGrant).status = s.status := rfl
@[simp] theorem State.dropGrant_alive (s : State) : (s.dropGrant).alive = s.alive := rfl
@[simp] theorem State.dropGrant_cfg (s : State) : (s.dropGrant).cfg = s.cfg := rfl
@[simp] theorem State.dropGrant_env (s : State) : (s.dropGrant).env = s.env.popGrant := rfl
@[simp] theorem State.dropGrant_trace (s : State) : (s.dropGrant).trace = s.trace := rfl

/-! ### shadowUpdate -/

@[simp] theorem State.shadowUpdate_opf (s : State) (a : Byte) (p : List Byte) : (s.shadowUpdate a p).opf = shadowAfter a s.cfg.addrOpf p s.opf := rfl
@[simp] theorem State.shadowUpdate_intsrs (s : State) (a : Byte) (p : List Byte) : (s.shadowUpdate a p).intsrs = shadowAfter a s.cfg.addrIntsrs p s.intsrs := rfl
@[simp] theorem State.shadowUpdate_enabled (s : State) (a : Byte) (p : List Byte) : (s.shadowUpdate a p).enabled = s.enabled := rfl
@[simp] theorem State.shadowUpdate_delay (s : State) (a : Byte) (p : List Byte) : (s.shadowUpdate a p).delay = s.delay := rfl
@[simp] theorem State.shadowUpdate_debug (s : State) (a : Byte) (p : List Byte) : (s.shadowUpdate a p).debug = s.debug := rfl
@[simp] theorem State.shadowUpdate_lastZone (s : State) (a : Byte) (p : List Byte) : (s.shadowUpdate a p).lastZone = s.lastZone := rfl
@[simp] theorem State.shadowUpdate_th (s : State) (a : Byte) (p : List Byte) : (s.shadowUpdate a p).th = s.th := rfl
@[simp] theorem State.shadowUpdate_tl (s : State) (a : Byte) (p : List Byte) : (s.shadowUpdate a p).tl = s.tl := rfl
@[simp] theorem State.shadowUpdate_calRef (s : State) (a : Byte) (p : List Byte) : (s.shadowUpdate a p).calRef = s.calRef := rfl
@[simp] theorem State.shadowUpdate_pol (s : State) (a : Byte) (p : List Byte) : (s.shadowUpdate a p).pol = s.pol := rfl
@[simp] theorem State.shadowUpdate_calHighDone (s : State) (a : Byte) (p : List Byte) : (s.shadowUpdate a p).calHighDone = s.calHighDone := rfl
@[simp] theorem State.shadowUpdate_calLowDone (s : State) (a : Byte) (p : List Byte) : (s.shadowUpdate a p).calLowDone = s.calLowDone := rfl
@[simp] theorem State.shadowUpdate_irqAttached (s : State) (a : Byte) (p : List Byte) : (s.shadowUpdate a p).irqAttached = s.irqAttached := rfl
@[simp] theorem State.shadowUpdate_irqHandle (s : State) (a : Byte) (p : List Byte) : (s.shadowUpdate a p).irqHandle = s.irqHandle := rfl
@[simp] theorem State.shadowUpdate_pending (s : State) (a : Byte) (p : List Byte) : (s.shadowUpdate a p).pending = s.pending := rfl
@[simp] theorem State.shadowUpdate_result (s : State) (a : Byte) (p : List Byte) : (s.shadowUpdate a p).result = s.result := rfl
@[simp] theorem State.shadowUpdate_status (s : State) (a : Byte) (p : List Byte) : (s.shadowUpdate a p).status = s.status := rfl
@[simp] theorem State.shadowUpdate_alive (s : State) (a : Byte) (p : List Byte) : (s.shadowUpdate a p).alive = s.alive := rfl
@[simp] theorem State.shadowUpdate_cfg (s : State) (a : Byte) (p : List Byte) : (s.shadowUpdate a p).cfg = s.cfg := rfl
@[simp] theorem State.shadowUpdate_env (s : State) (a : Byte) (p : List Byte) : (s.shadowUpdate a p).env = s.env := rfl
@[simp] theorem State.shadowUpdate_trace (s : State) (a : Byte) (p : List Byte) : (s.shadowUpdate a p).trace = s.trace := rfl

/-! ### settle -/

@[simp] theorem State.settle_opf (s : State) (a : Byte) : (s.settle a).opf = s.opf := by
  unfold State.settle; split <;> simp [State.wait, State.emit]
@[simp] theorem State.settle_intsrs (s : State) (a : Byte) : (s.settle a).intsrs = s.intsrs := by
  unfold State.settle; split <;> simp [State.wait, State.emit]
@[simp] theorem State.settle_enabled (s : State) (a : Byte) : (s.settle a).enabled = s.enabled := by
  unfold State.settle; split <;> simp [State.wait, State.emit]
@[simp] theorem State.settle_delay (s : State) (a : Byte) : (s.settle a).delay = s.delay := by
  unfold State.settle; split <;> simp [State.wait, State.emit]
@[simp] theorem State.settle_debug (s : State) (a : Byte) : (s.settle a).debug = s.debug := by
  unfold State.settle; split <;> simp [State.wait, State.emit]
@[simp] theorem State.settle_lastZone (s : State) (a : Byte) : (s.settle a).lastZone = s.lastZone := by
  unfold State.settle; split <;> simp [State.wait, State.emit]
@[simp] theorem State.settle_th (s : State) (a : Byte) : (s.settle a).th = s.th := by
  unfold State.settle; split <;> simp [State.wait, State.emit]
@[simp] theorem State.settle_tl (s : State) (a : Byte) : (s.settle a).tl = s.tl := by
  unfold State.settle; split <;> simp [State.wait, State.emit]
@[simp] theorem State.settle_calRef (s : State) (a : Byte) : (s.settle a).calRef = s.calRef := by
  unfold State.settle; split <;> simp [State.wait, State.emit]
@[simp] theorem State.settle_pol (s : State) (a : Byte) : (s.settle a).pol = s.pol := by
  unfold State.settle; split <;> simp [State.wait, State.emit]
@[simp] theorem State.settle_calHighDone (s : State) (a : Byte) : (s.settle a).calHighDone = s.calHighDone := by
  unfold State.settle; split <;> simp [State.wait, State.emit]
@[simp] theorem State.settle_calLowDone (s : State) (a : Byte) : (s.settle a).calLowDone = s.calLowDone := by
  unfold State.settle; split <;> simp [State.wait, State.emit]
@[simp] theorem State.settle_irqAttached (s : State) (a : Byte) : (s.settle a).irqAttached = s.irqAttached := by
  unfold State.settle; split <;> simp [State.wait, State.emit]
@[simp] theorem State.settle_irqHandle (s : State) (a : Byte) : (s.settle a).irqHandle = s.irqHandle := by
  unfold State.settle; split <;> simp [State.wait, State.emit]
@[simp] theorem State.settle_pending (s : State) (a : Byte) : (s.settle a).pending = s.pending := by
  unfold State.settle; split <;> simp [State.wait, State.emit]
@[simp] theorem State.settle_result (s : State) (a : Byte) : (s.settle a).result = s.result := by
  unfold State.settle; split <;> simp [State.wait, State.emit]
@[simp] theorem State.settle_status (s : State) (a : Byte) : (s.settle a).status = s.status := by
  unfold State.settle; split <;> simp [State.wait, State.emit]
@[simp] theorem State.settle_alive (s : State) (a : Byte) : (s.settle a).alive = s.alive := by
  unfold State.settle; split <;> simp [State.wait, State.emit]
@[simp] theorem State.settle_cfg (s : State) (a : Byte) : (s.settle a).cfg = s.cfg := by
  unfold State.settle; split <;> simp [State.wait, State.emit]
@[simp] theorem State.settle_env (s : State) (a : Byte) : (s.settle a).env = s.env := by
  unfold State.settle; split <;> simp [State.wait, State.emit]
@[simp] theorem State.settle_trace (s : State) (a : Byte) : (s.settle a).trace = s.trace ++ if a = s.cfg.addrSrst then [.wait s.cfg.srstSettleMs] else [] := by
  unfold State.settle; split <;> simp [State.wait, State.emit]

/-! ### irqDetach -/

@[simp] theorem irqDetach_opf (s : State) : (irqDetach s).opf = s.opf := rfl
@[simp] theorem irqDetach_intsrs (s : State) : (irqDetach s).intsrs = s.intsrs := rfl
@[simp] theorem irqDetach_enabled (s : State) : (irqDetach s).enabled = s.enabled := rfl
@[simp] theorem irqDetach_delay (s : State) : (irqDetach s).delay = s.delay := rfl
@[simp] theorem irqDetach_debug (s : State) : (irqDetach s).debug = s.debug := rfl
@[simp] theorem irqDetach_lastZone (s : State) : (irqDetach s).lastZone = s.lastZone := rfl
@[simp] theorem irqDetach_th (s : State) : (irqDetach s).th = s.th := rfl
@[simp] theorem irqDetach_tl (s : State) : (irqDetach s).tl = s.tl := rfl
@[simp] theorem irqDetach_calRef (s : State) : (irqDetach s).calRef = s.calRef := rfl
@[simp] theorem irqDetach_pol (s : State) : (irqDetach s).pol = s.pol := rfl
@[simp] theorem irqDetach_calHighDone (s : State) : (irqDetach s).calHighDone = s.calHighDone := rfl
@[simp] theorem irqDetach_calLowDone (s : State) : (irqDetach s).calLowDone = s.calLowDone := rfl
@[simp] theorem irqDetach_irqAttached (s : State) : (irqDetach s).irqAttached = false := rfl
@[simp] theorem irqDetach_irqHandle (s : State) : (irqDetach s).irqHandle = none := rfl
@[simp] theorem irqDetach_pending (s : State) : (irqDetach s).pending = s.pending := rfl
@[simp] theorem irqDetach_result (s : State) : (irqDetach s).result = s.result := rfl
@[simp] theorem irqDetach_status (s : State) : (irqDetach s).status = s.status := rfl
@[simp] theorem irqDetach_alive (s : State) : (irqDetach s).alive = s.alive := rfl
@[simp] theorem irqDetach_cfg (s : State) : (irqDetach s).cfg = s.cfg := rfl
@[simp] theorem irqDetach_env (s : State) : (irqDetach s).env = s.env := rfl
@[simp] theorem irqDetach_trace (s : State) : (irqDetach s).trace = s.trace ++ [.irqRelease s.irqHandle] := rfl

/-! ### presentCommand -/

@[simp] theorem State.presentCommand_opf (s : State) (w : Word) : (s.presentCommand w).opf = s.opf := rfl
@[simp] theorem State.presentCommand_intsrs (s : State) (w : Word) : (s.presentCommand w).intsrs = s.intsrs := rfl
@[simp] theorem State.presentCommand_enabled (s : State) (w : Word) : (s.presentCommand w).enabled = s.enabled := rfl
@[simp] theorem State.presentCommand_delay (s : State) (w : Word) : (s.presentCommand w).delay = s.delay := rfl
@[simp] theorem State.presentCommand_debug (s : State) (w : Word) : (s.presentCommand w).debug = s.debug := rfl
@[simp] theorem State.presentCommand_lastZone (s : State) (w : Word) : (s.presentCommand w).lastZone = s.lastZone := rfl
@[simp] theorem State.presentCommand_th (s : State) (w : Word) : (s.presentCommand w).th = s.th := rfl
@[simp] theorem State.presentCommand_tl (s : State) (w : Word) : (s.presentCommand w).tl = s.tl := rfl
@[simp] theorem State.presentCommand_calRef (s : State) (w : Word) : (s.presentCommand w).calRef = s.calRef := rfl
@[simp] theorem State.presentCommand_pol (s : State) (w : Word) : (s.presentCommand w).pol = s.pol := rfl
@[simp] theorem State.presentCommand_calHighDone (s : State) (w : Word) : (s.presentCommand w).calHighDone = s.calHighDone := rfl
@[simp] theorem State.presentCommand_calLowDone (s : State) (w : Word) : (s.presentCommand w).calLowDone = s.calLowDone := rfl
@[simp] theorem State.presentCommand_irqAttached (s : State) (w : Word) : (s.presentCommand w).irqAttached = s.irqAttached := rfl
@[simp] theorem State.presentCommand_irqHandle (s : State) (w : Word) : (s.presentCommand w).irqHandle = s.irqHandle := rfl
@[simp] theorem State.presentCommand_pending (s : State) (w : Word) : (s.presentCommand w).pending = s.pending := rfl
@[simp] theorem State.presentCommand_result (s : State) (w : Word) : (s.presentCommand w).result = s.result := rfl
@[simp] theorem State.presentCommand_status (s : State) (w : Word) : (s.presentCommand w).status = s.status := rfl
@[simp] theorem State.presentCommand_alive (s : State) (w : Word) : (s.presentCommand w).alive = true := rfl
@[simp] theorem State.presentCommand_cfg (s : State) (w : Word) : (s.presentCommand w).cfg = s.cfg := rfl
@[simp] theorem State.presentCommand_env (s : State) (w : Word) : (s.presentCommand w).env = { s.env with events := .command w :: s.env.events } := rfl
@[simp] theorem State.presentCommand_trace (s : State) (w : Word) : (s.presentCommand w).trace = s.trace := rfl

/-! ### lose -/

@[simp] theorem State.lose_opf (s : State) : s.lose.opf = (Config.lostState s.env.draws).opf := rfl
@[simp] theorem State.lose_intsrs (s : State) : s.lose.intsrs = (Config.lostState s.env.draws).intsrs := rfl
@[simp] theorem State.lose_enabled (s : State) : s.lose.enabled = (Config.lostState s.env.draws).enabled := rfl
@[simp] theorem State.lose_delay (s : State) : s.lose.delay = clampDelay s.cfg (Config.lostState s.env.draws).delay := rfl
@[simp] theorem State.lose_debug (s : State) : s.lose.debug = (Config.lostState s.env.draws).debug := rfl
@[simp] theorem State.lose_lastZone (s : State) : s.lose.lastZone = (Config.lostState s.env.draws).lastZone := rfl
@[simp] theorem State.lose_th (s : State) : s.lose.th = (Config.lostState s.env.draws).th := rfl
@[simp] theorem State.lose_tl (s : State) : s.lose.tl = (Config.lostState s.env.draws).tl := rfl
@[simp] theorem State.lose_calRef (s : State) : s.lose.calRef = (Config.lostState s.env.draws).calRef.signExtend 16 := rfl
@[simp] theorem State.lose_pol (s : State) : s.lose.pol = (Config.lostState s.env.draws).pol := rfl
@[simp] theorem State.lose_calHighDone (s : State) : s.lose.calHighDone = (Config.lostState s.env.draws).calHighDone := rfl
@[simp] theorem State.lose_calLowDone (s : State) : s.lose.calLowDone = (Config.lostState s.env.draws).calLowDone := rfl
@[simp] theorem State.lose_irqAttached (s : State) : s.lose.irqAttached = false := rfl
@[simp] theorem State.lose_irqHandle (s : State) : s.lose.irqHandle = none := rfl
@[simp] theorem State.lose_pending (s : State) : s.lose.pending = false := rfl
@[simp] theorem State.lose_result (s : State) : s.lose.result = (Config.lostState s.env.draws).result := rfl
@[simp] theorem State.lose_status (s : State) : s.lose.status = BitVec.ofNat 8 (Config.lostState s.env.draws).status.val := rfl
@[simp] theorem State.lose_alive (s : State) : s.lose.alive = s.alive := rfl
@[simp] theorem State.lose_cfg (s : State) : s.lose.cfg = s.cfg := rfl
@[simp] theorem State.lose_env (s : State) : s.lose.env = s.env.drawn := rfl
@[simp] theorem State.lose_trace (s : State) : s.lose.trace = s.trace := rfl

/-! The bounds that hold of the state that is left (R34, R39, R240). -/

theorem State.lose_delayMin (s : State) : s.cfg.delayMin ≤ s.lose.delay := by
  simp only [State.lose_delay, clampDelay]
  split
  · exact BitVec.le_refl _
  · exact BitVec.not_lt.mp ‹_›

theorem State.lose_calRef_range (s : State) : -512 ≤ s.lose.calRef.toInt ∧ s.lose.calRef.toInt ≤ 511 := by
  have low := (Config.lostState s.env.draws).calRef.le_two_mul_toInt
  have high := (Config.lostState s.env.draws).calRef.two_mul_toInt_lt
  rw [State.lose_calRef, BitVec.toInt_signExtend_of_le (by decide)]
  omega

theorem State.lose_status_le (s : State) : s.lose.status ≤ 6 := by
  have h := (Config.lostState s.env.draws).status.isLt
  have six : (6 : Byte).toNat = 6 := rfl
  rw [State.lose_status, BitVec.le_def, BitVec.toNat_ofNat, six]
  omega

end Sys2Proof.Machine
end

