-- ==== Sys2Proof/Laws/Ops.lean ====
section
/-! SUPPORT. What each shared operation can do, said once: the case lemmas of the primitives, and one lemma per
operation that every relation kept by the primitive updates is kept by the operation. -/

namespace Sys2Proof.Machine

/-! ### Ends -/

@[simp] theorem Res.state_done {α : Type} (v : α) (s : State) : (Res.done v s).state = s := rfl
@[simp] theorem Res.state_raised {α : Type} (e : Err) (s : State) : (Res.raised e s : Res α).state = s := rfl
@[simp] theorem Res.andThen_done {α β : Type} (v : α) (s : State) (f : α → State → Res β) :
    (Res.done v s).andThen f = f v s := rfl
@[simp] theorem Res.andThen_raised {α β : Type} (e : Err) (s : State) (f : α → State → Res β) :
    (Res.raised e s : Res α).andThen f = .raised e s := rfl
@[simp] theorem Res.caught_done {α : Type} (v : α) (s : State) (b : Bool) : (Res.done v s).caught b = (b, s) := rfl
@[simp] theorem Res.caught_raised {α : Type} (e : Err) (s : State) (b : Bool) :
    (Res.raised e s : Res α).caught b = (true, s) := rfl
@[simp] theorem Res.noResult_done (s : State) : (Res.done () s).noResult = .done 0 s := rfl
@[simp] theorem Res.noResult_raised (e : Err) (s : State) : (Res.raised e s : Res Unit).noResult = .raised e s := rfl
@[simp] theorem Res.finish_done (v : Word) (s : State) : (Res.done v s).finish = s.complete v := rfl
@[simp] theorem Res.finish_raised (e : Err) (s : State) : (Res.raised e s : Res Word).finish = s.raise e := rfl

theorem Res.caught_state {α : Type} (r : Res α) (b : Bool) : (r.caught b).2 = r.state := by
  cases r <;> rfl

theorem Res.caught_flag {α : Type} (r : Res α) (b : Bool) (h : b = true) : (r.caught b).1 = true := by
  cases r <;> simp [h]

theorem Res.noResult_state (r : Res Unit) : r.noResult.state = r.state := by
  cases r <;> rfl

/-- A command's end writes `S.status` and `S.result` and nothing else. -/
theorem Res.finish_eq (r : Res Word) : ∃ w c, r.finish = { r.state with result := w, status := c } := by
  cases r
  · exact ⟨_, _, rfl⟩
  · exact ⟨_, _, rfl⟩

/-- A command ends OK, or with an error code and result 0 (R16, R17). -/
theorem Res.finish_cases (r : Res Word) :
    (∃ v s, r = .done v s ∧ r.finish = s.complete v) ∨ (∃ e s, r = .raised e s ∧ r.finish = s.raise e) := by
  cases r
  · exact .inl ⟨_, _, rfl, rfl⟩
  · exact .inr ⟨_, _, rfl, rfl⟩

theorem Err.code_ne_zero (e : Err) : e.code ≠ 0 := by
  cases e <;> decide

theorem Err.code_le_six (e : Err) : e.code ≤ 6 := by
  cases e <;> decide

/-! ### The transport -/

/-- Everything a register read can do (R53): refused for its length, answered with `n` bytes, or not acknowledged. -/
theorem memRead_cases (addr : Byte) (n : Nat) (s : State) :
    ((n < 1 ∨ s.cfg.maxXfer < n) ∧ memRead addr n s = .raised .transport s) ∨
    (∃ b, b.length = n ∧
      memRead addr n s = .done b ((s.dropAck.dropBytes n).emit (.busRead addr n (some b)))) ∨
    memRead addr n s = .raised .transport (s.dropAck.emit (.busRead addr n none)) := by
  have len : ∀ (k : Nat) (e : Env), (e.take k).length = k := by
    intro k
    induction k with
    | zero => intro e; rfl
    | succ k ih => intro e; simp [Env.take, ih]
  unfold memRead
  split
  · exact .inl ⟨‹_›, rfl⟩
  · split
    · exact .inr (.inl ⟨_, len _ _, rfl⟩)
    · exact .inr (.inr rfl)

/-- Everything a register write can do (R55): refused for its length, done with its shadow and its settle wait, or not
acknowledged with the shadows untouched. -/
theorem memWrite_cases (addr : Byte) (payload : List Byte) (s : State) :
    ((payload.length < 1 ∨ s.cfg.maxXfer < payload.length) ∧ memWrite addr payload s = .raised .transport s) ∨
    (s.env.ack = true ∧ memWrite addr payload s =
      .done () (((s.dropAck.emit (.busWrite addr payload true)).shadowUpdate addr payload).settle addr)) ∨
    (s.env.ack = false ∧ memWrite addr payload s =
      .raised .transport (s.dropAck.emit (.busWrite addr payload false))) := by
  unfold memWrite
  split
  · exact .inl ⟨‹_›, rfl⟩
  · split
    · exact .inr (.inl ⟨‹_›, rfl⟩)
    · exact .inr (.inr ⟨Bool.eq_false_iff.mpr ‹_›, rfl⟩)

/-- Everything a line request can do (R143). -/
theorem irqAttach_cases (s : State) :
    (∃ h, s.env.grant = some h ∧ irqAttach s =
      .done () { s.dropGrant.emit (.irqRequest s.cfg.irqLine requestProps (some h)) with
        irqHandle := some h, irqAttached := true }) ∨
    (s.env.grant = none ∧ irqAttach s =
      .raised .interruptAttach (s.dropGrant.emit (.irqRequest s.cfg.irqLine requestProps none))) := by
  unfold irqAttach
  split
  · exact .inl ⟨_, ‹_›, rfl⟩
  · exact .inr ⟨‹_›, rfl⟩

/-! ### Relations kept by the operations

`W` says which register accesses the operations may make, `R` relates a state to the state an operation leaves.
Each operation keeps every `R` that its primitive updates keep, if `W` allows its own accesses. -/

/-- An event the transport emits that is neither a publication nor an acknowledged write. -/
def Emitted.quiet : Emitted → Bool
  | .publish _ => false
  | .busWrite _ _ ack => !ack
  | _ => true

/-- `W` allows the accesses listed for each configuration. -/
def Allows (W : Config → Access → Prop) (l : Config → List Access) : Prop := ∀ c, ∀ x ∈ l c, W c x

/-- A relation kept by what the transport does. -/
structure KeptByBus (W : Config → Access → Prop) (R : State → State → Prop) : Prop where
  cfg : ∀ {s t}, R s t → t.cfg = s.cfg
  refl : ∀ s, R s s
  trans : ∀ {s t u}, R s t → R t u → R s u
  env : ∀ (s : State) e, R s { s with env := e }
  quiet : ∀ (s : State) x, x.quiet = true → (∀ y ∈ accesses [x], W s.cfg y) → R s (s.emit x)
  write : ∀ (s : State) a p, W s.cfg (.write a) → R s ((s.emit (.busWrite a p true)).shadowUpdate a p)

/-- And by the interrupt-line controller. -/
structure KeptByLine (W : Config → Access → Prop) (R : State → State → Prop) : Prop extends KeptByBus W R where
  attach : ∀ (s : State) h, R s { s with irqHandle := some h, irqAttached := true }
  detach : ∀ (s : State), R s { s with irqHandle := none, irqAttached := false }

/-- And by a sample pass. -/
structure KeptByPass (W : Config → Access → Prop) (R : State → State → Prop) : Prop extends KeptByBus W R where
  zone : ∀ (s : State) z v, R s (({ s with lastZone := z } : State).publish v)
  arm : ∀ (s : State) b, R s { s with pending := b }

theorem Allows.left {W : Config → Access → Prop} {l m : Config → List Access} (h : Allows W fun c => l c ++ m c) :
    Allows W l := fun c x hx => h c x (List.mem_append_left _ hx)

theorem Allows.right {W : Config → Access → Prop} {l m : Config → List Access} (h : Allows W fun c => l c ++ m c) :
    Allows W m := fun c x hx => h c x (List.mem_append_right _ hx)

variable {W : Config → Access → Prop} {R : State → State → Prop}

theorem KeptByBus.andThen (k : KeptByBus W R) {α β : Type} {s : State} {r : Res α} {f : α → State → Res β}
    (h : R s r.state) (hf : ∀ v t, t.cfg = s.cfg → R t (f v t).state) : R s (r.andThen f).state := by
  cases r with
  | done v t => exact k.trans h (hf v t (k.cfg h))
  | raised e t => exact h

theorem KeptByBus.say (k : KeptByBus W R) (s : State) (x : Emitted) (hq : x.quiet = true) (hx : accesses [x] = []) :
    R s (s.emit x) := k.quiet s x hq (by simp [hx])

theorem KeptByBus.wait (k : KeptByBus W R) (s : State) (ms : Nat) : R s (s.wait ms) := k.say s _ rfl rfl

theorem KeptByBus.settle (k : KeptByBus W R) (s : State) (addr : Byte) : R s (s.settle addr) := by
  unfold State.settle
  split
  · exact k.wait s _
  · exact k.refl s

theorem KeptByBus.memRead (k : KeptByBus W R) (addr : Byte) (n : Nat) (s : State) (hw : W s.cfg (.read addr)) :
    R s (memRead addr n s).state := by
  have said : ∀ (t : State) a, t.cfg = s.cfg → R t (t.emit (.busRead addr n a)) := fun t a ht =>
    k.quiet t _ rfl (by simpa [accesses, ht] using hw)
  obtain ⟨-, h⟩ | ⟨b, -, h⟩ | h := memRead_cases addr n s <;> rw [h]
  · exact k.refl s
  · exact k.trans (k.env s _) (k.trans (k.env _ _) (said _ _ rfl))
  · exact k.trans (k.env s _) (said _ _ rfl)

theorem KeptByBus.memWrite (k : KeptByBus W R) (addr : Byte) (payload : List Byte) (s : State)
    (hw : W s.cfg (.write addr)) : R s (memWrite addr payload s).state := by
  obtain ⟨-, h⟩ | ⟨-, h⟩ | ⟨-, h⟩ := memWrite_cases addr payload s <;> rw [h]
  · exact k.refl s
  · exact k.trans (k.env s s.env.popAck) (k.trans (k.write _ addr payload hw) (k.settle _ addr))
  · exact k.trans (k.env s _) (k.quiet _ _ rfl (by simpa [accesses] using hw))

theorem KeptByBus.memWrites (k : KeptByBus W R) (ws : List (Byte × Byte)) (s : State)
    (hw : ∀ w ∈ ws, W s.cfg (.write w.1)) : R s (memWrites ws s).state := by
  induction ws generalizing s with
  | nil => exact k.refl s
  | cons w ws ih =>
    refine k.andThen (k.memWrite w.1 [w.2] s (hw w (by simp))) fun _ t ht => ih t ?_
    rw [ht]
    exact fun v hv => hw v (by simp [hv])

theorem KeptByBus.writeOpf (k : KeptByBus W R) (hw : Allows W opfAccess) (v : Byte) (s : State) :
    R s (writeOpf v s).state := k.memWrite _ _ s (hw _ _ (by simp [opfAccess]))

theorem KeptByBus.writeIntsrs (k : KeptByBus W R) (hw : Allows W intsrsAccess) (v : Byte) (s : State) :
    R s (writeIntsrs v s).state := k.memWrite _ _ s (hw _ _ (by simp [intsrsAccess]))

theorem KeptByBus.updateThresholds (k : KeptByBus W R) (hw : Allows W thresholdAccess) (s : State) :
    R s (updateThresholds s).state :=
  k.memWrites _ s fun w h => hw _ _ (by
    simp only [thresholdWrites, List.mem_cons, List.not_mem_nil, or_false] at h
    rcases h with rfl | rfl | rfl | rfl | rfl <;> simp [thresholdAccess])

theorem KeptByBus.writeTypeFor (k : KeptByBus W R) (hw : Allows W intsrsAccess) (z : Zone) (s : State) :
    R s (writeTypeFor z s).state := by
  unfold Machine.writeTypeFor
  split
  · exact k.refl s
  · exact k.writeIntsrs hw _ s

theorem KeptByBus.readSample (k : KeptByBus W R) (hw : Allows W sampleAccess) (s : State) : R s (readSample s).state := by
  refine k.andThen (k.memRead _ _ s (hw _ _ (by simp [sampleAccess]))) fun b t _ => ?_
  split
  · exact k.refl t
  · exact k.refl t

theorem KeptByBus.readByte (k : KeptByBus W R) (addr : Byte) (s : State) (hw : W s.cfg (.read addr)) :
    R s (readByte addr s).state := k.andThen (k.memRead _ _ s hw) fun _ t _ => k.refl t

theorem KeptByBus.setModeFuse (k : KeptByBus W R) (hw : Allows W opfAccess) (s : State) : R s (setModeFuse s).state :=
  k.writeOpf hw _ s

theorem KeptByBus.setDetPoll (k : KeptByBus W R) (hw : Allows W intsrsAccess) (s : State) : R s (setDetPoll s).state :=
  k.writeIntsrs hw _ s

theorem KeptByBus.setDetInt (k : KeptByBus W R) (hi : Allows W intsrsAccess) (ht : Allows W thresholdAccess) (s : State) :
    R s (setDetInt s).state :=
  k.andThen (k.writeTypeFor hi _ s) fun _ t _ => k.andThen (k.updateThresholds ht t) fun _ u _ => k.writeIntsrs hi _ u

theorem KeptByBus.setDetCurrent (k : KeptByBus W R) (hi : Allows W intsrsAccess) (ht : Allows W thresholdAccess)
    (s : State) : R s (setDetCurrent s).state := by
  unfold Machine.setDetCurrent
  split
  · exact k.setDetInt hi ht s
  · exact k.setDetPoll hi s

theorem KeptByBus.moreSamples (k : KeptByBus W R) (hw : Allows W sampleAccess) (n : Nat) (s : State) :
    R s (moreSamples n s).state := by
  induction n generalizing s with
  | zero => exact k.refl s
  | succ n ih =>
    exact k.andThen (k.trans (k.wait s _) (k.readSample hw _)) fun _ t _ => k.andThen (ih t) fun _ u _ => k.refl u

theorem KeptByBus.takeSamples (k : KeptByBus W R) (hw : Allows W sampleAccess) (n : Nat) (s : State) :
    R s (takeSamples n s).state := by
  cases n with
  | zero => exact k.refl s
  | succ n =>
    exact k.andThen (k.readSample hw s) fun _ t _ => k.andThen (k.moreSamples hw n t) fun _ u _ => k.refl u

/-! ### The line -/

theorem KeptByLine.irqAttach (k : KeptByLine W R) (s : State) : R s (irqAttach s).state := by
  obtain ⟨h, -, e⟩ | ⟨-, e⟩ := irqAttach_cases s <;> rw [e]
  · exact k.trans (k.env s _) (k.trans (k.say _ _ rfl rfl) (k.attach _ h))
  · exact k.trans (k.env s _) (k.say _ _ rfl rfl)

theorem KeptByLine.detachIfAttached (k : KeptByLine W R) (s : State) : R s (detachIfAttached s) := by
  unfold Machine.detachIfAttached
  split
  · exact k.trans (k.say s _ rfl rfl) (k.detach _)
  · exact k.refl s

theorem KeptByLine.setModePd (k : KeptByLine W R) (hw : Allows W opfAccess) (s : State) : R s (setModePd s).state :=
  k.trans (k.detachIfAttached s) (k.writeOpf hw _ _)

theorem KeptByLine.setModeMeas (k : KeptByLine W R) (hw : Allows W opfAccess) (s : State) : R s (setModeMeas s).state := by
  refine k.andThen (k.writeOpf hw _ s) fun _ t _ => ?_
  split
  · exact k.irqAttach t
  · exact k.refl t

theorem KeptByLine.calPrepare (k : KeptByLine W R) (ho : Allows W opfAccess) (hi : Allows W intsrsAccess) (s : State) : R s (calPrepare s).state :=
  k.andThen (k.writeIntsrs hi _ s) fun _ t _ => k.andThen (k.setModePd ho t) fun _ u _ =>
    k.andThen (k.writeOpf ho _ u) fun _ v _ => k.wait v _

theorem KeptByLine.calMeasure (k : KeptByLine W R) (hw : Allows W calibrationAccess) (s : State)
    (ref : ∀ (t : State) vs, R t { t with calRef := meanOf vs t.cfg.calN }) : R s (calMeasure s).state :=
  k.andThen (k.calPrepare hw.left.left hw.left.right s) fun _ t _ => k.andThen (k.takeSamples hw.right _ t) fun vs u _ => ref u vs

theorem KeptByLine.reattach (k : KeptByLine W R) (was : Bool) (s : State) : R s (reattach was s).state := by
  unfold Machine.reattach
  split
  · exact k.irqAttach s
  · exact k.refl s

theorem KeptByLine.powerDownIfDisabled (k : KeptByLine W R) (hw : Allows W opfAccess) (s : State) : R s (powerDownIfDisabled s).state := by
  unfold Machine.powerDownIfDisabled
  split
  · exact k.refl s
  · exact k.setModePd hw s

theorem KeptByLine.calRestore (k : KeptByLine W R) (ho : Allows W opfAccess) (hi : Allows W intsrsAccess) (saved : State) (failed : Bool) (s : State) :
    R s (calRestore saved failed s).2 := by
  unfold Machine.calRestore
  simp only [Res.caught_state]
  exact k.trans (k.trans (k.trans (k.writeIntsrs hi _ s) (k.reattach _ _)) (k.writeOpf ho _ _)) (k.powerDownIfDisabled ho _)

theorem KeptByLine.calibrate (k : KeptByLine W R) (hw : Allows W calibrationAccess) (s : State)
    (ref : ∀ (t : State) vs, R t { t with calRef := meanOf vs t.cfg.calN }) : R s (calibrate s).2 := by
  unfold Machine.calibrate
  simp only [Res.caught_state]
  exact k.trans (k.trans (k.detachIfAttached s) (k.calMeasure hw _ ref)) (k.calRestore hw.left.left hw.left.right _ _ _)

/-! ### The sample pass -/

theorem KeptByPass.schedule (k : KeptByPass W R) (s : State) (ms : Nat) : R s (s.schedule ms) :=
  k.trans (k.say s _ rfl rfl) (k.arm _ true)

theorem KeptByPass.cancelAndWait (k : KeptByPass W R) (s : State) : R s s.cancelAndWait :=
  k.trans (k.say s _ rfl rfl) (k.arm _ false)

theorem KeptByPass.reprogram (k : KeptByPass W R) (hi : Allows W intsrsAccess) (ht : Allows W thresholdAccess) (s : State) : R s (reprogram s).state := by
  unfold Machine.reprogram
  split
  · exact k.andThen (k.writeTypeFor hi _ s) fun _ t _ => k.updateThresholds ht t
  · exact k.refl s

theorem KeptByPass.passOnSample (k : KeptByPass W R) (hi : Allows W intsrsAccess) (ht : Allows W thresholdAccess) (raw : Int) (s : State) : R s (passOnSample raw s).state :=
  k.trans (k.zone s _ _) (k.reprogram hi ht _)

theorem KeptByPass.samplePass (k : KeptByPass W R) (hw : Allows W passAccess) (s : State) : R s (samplePass s) := by
  have body : R s (passBody s).state := k.andThen (k.readSample hw.right s) fun raw t _ =>
    k.passOnSample hw.left.left hw.left.right raw t
  have logged : R s (logFailure (passBody s)) := by
    cases h : passBody s with
    | done v t => rw [h] at body; exact body
    | raised e t => rw [h] at body; exact k.trans body (k.say _ _ rfl rfl)
  unfold Machine.samplePass rearm
  split
  · exact k.trans logged (k.schedule _ _)
  · exact logged

theorem KeptByPass.startDelivery (k : KeptByPass W R) (hw : Allows W passAccess) (s : State) : R s (startDelivery s) := by
  unfold Machine.startDelivery
  split
  · exact k.schedule _ _
  · exact k.trans (k.wait s _) (k.samplePass hw _)

end Sys2Proof.Machine
end

