-- ==== Sys2Proof/Laws/Sequences.lean ====
section
/-! SUPPORT. What the transport's operations do when the environment's answers are listed: one equation per operation,
with the writes and the reads of a whole sequence at once. -/

namespace Sys2Proof.Machine

/-! ### Writes -/

theorem lastWritten_append (reg old : Byte) (xs ys : List Emitted) :
    lastWritten reg old (xs ++ ys) = lastWritten reg (lastWritten reg old xs) ys := by
  fun_induction lastWritten reg old xs with
  | case1 => rfl
  | case2 old addr b rest ih => simp [lastWritten, ih]
  | case3 old x rest h ih =>
    rw [List.cons_append, lastWritten]
    · exact ih
    · exact h

/-- A one-byte write away from the soft-reset register that is acknowledged. -/
theorem memWrite_acked (addr v : Byte) (s : State) (rest : List Bool) (hx : 1 ≤ s.cfg.maxXfer)
    (hr : addr ≠ s.cfg.addrSrst) (ha : s.env.acks = true :: rest) :
    memWrite addr [v] s = .done () { s with
      opf := if addr = s.cfg.addrOpf then v else s.opf
      intsrs := if addr = s.cfg.addrIntsrs then v else s.intsrs
      env := { s.env with acks := rest }
      trace := s.trace ++ [.busWrite addr [v] true] } := by
  simp only [memWrite, Env.ack, ha, List.length_singleton, State.settle]
  rw [if_neg (by omega), if_pos trivial, if_neg (by simpa [State.shadowUpdate, State.emit, State.dropAck] using hr)]
  simp [State.shadowUpdate, State.emit, State.dropAck, shadowAfter, Env.popAck, ha]

/-- A one-byte write that is not acknowledged. -/
theorem memWrite_nacked (addr v : Byte) (s : State) (rest : List Bool) (hx : 1 ≤ s.cfg.maxXfer)
    (ha : s.env.acks = false :: rest) :
    memWrite addr [v] s = .raised .transport { s with
      env := { s.env with acks := rest }, trace := s.trace ++ [.busWrite addr [v] false] } := by
  simp only [memWrite, Env.ack, ha, List.length_singleton]
  rw [if_neg (by omega), if_neg Bool.false_ne_true]
  simp [State.emit, State.dropAck, Env.popAck, ha]

/-- What a sequence of acknowledged one-byte writes leaves. -/
def State.afterWrites (s : State) (ws : List (Byte × Byte)) (rest : List Bool) : State :=
  { s with
    opf := lastWritten s.cfg.addrOpf s.opf (acknowledged ws)
    intsrs := lastWritten s.cfg.addrIntsrs s.intsrs (acknowledged ws)
    env := { s.env with acks := rest }
    trace := s.trace ++ acknowledged ws }

/-- Writes in order, all acknowledged (R182). -/
theorem memWrites_acked (ws : List (Byte × Byte)) : ∀ (s : State) (rest : List Bool), 1 ≤ s.cfg.maxXfer →
    (∀ w ∈ ws, w.1 ≠ s.cfg.addrSrst) → s.env.acks = List.replicate ws.length true ++ rest →
    memWrites ws s = .done () (s.afterWrites ws rest) := by
  induction ws with
  | nil =>
    intro s rest _ _ ha
    obtain rfl : s.env.acks = rest := by simpa using ha
    simp [memWrites, State.afterWrites, acknowledged, lastWritten]
  | cons w ws ih =>
    intro s rest hx hr ha
    simp only [memWrites]
    rw [memWrite_acked w.1 w.2 s (List.replicate ws.length true ++ rest) hx (hr w (by simp))
      (by simpa [List.replicate_succ] using ha)]
    simp only [Res.andThen_done]
    refine (ih _ rest ?_ ?_ ?_).trans ?_
    · exact hx
    · exact fun v hv => hr v (by simp [hv])
    · rfl
    simp [State.afterWrites, acknowledged, lastWritten]

/-- Writes in order of which the one after the first `k` is not acknowledged: it raises, the writes before it stand and
the writes after it are not issued (R182). -/
theorem memWrites_stopped (ws : List (Byte × Byte)) : ∀ (s : State) (k : Nat) (rest : List Bool), 1 ≤ s.cfg.maxXfer →
    (∀ w ∈ ws, w.1 ≠ s.cfg.addrSrst) → k < ws.length → s.env.acks = List.replicate k true ++ false :: rest →
    memWrites ws s = .raised .transport { s with
      opf := lastWritten s.cfg.addrOpf s.opf (stoppedAt k ws)
      intsrs := lastWritten s.cfg.addrIntsrs s.intsrs (stoppedAt k ws)
      env := { s.env with acks := rest }
      trace := s.trace ++ stoppedAt k ws } := by
  induction ws with
  | nil => intro s k rest _ _ hk; simp at hk
  | cons w ws ih =>
    intro s k rest hx hr hk ha
    simp only [memWrites]
    cases k with
    | zero =>
      rw [memWrite_nacked w.1 w.2 s rest hx (by simpa using ha)]
      simp [stoppedAt, acknowledged, lastWritten]
    | succ k =>
      rw [memWrite_acked w.1 w.2 s (List.replicate k true ++ false :: rest) hx (hr w (by simp))
        (by simpa [List.replicate_succ] using ha)]
      simp only [Res.andThen_done]
      refine (ih _ k rest ?_ ?_ (by simpa using hk) ?_).trans ?_
      · exact hx
      · exact fun v hv => hr v (by simp [hv])
      · rfl
      simp [stoppedAt, acknowledged, lastWritten]

/-- Writes to other registers leave a shadow alone. -/
theorem lastWritten_elsewhere (reg old : Byte) (ws : List (Byte × Byte)) (h : ∀ w ∈ ws, w.1 ≠ reg) :
    lastWritten reg old (acknowledged ws) = old := by
  induction ws with
  | nil => rfl
  | cons w ws ih =>
    have := ih fun v hv => h v (by simp [hv])
    simpa [acknowledged, lastWritten, h w (by simp)] using this

/-! ### Reads -/

theorem Env.take_listed (b : List Byte) : ∀ (e : Env) (rest : List Byte), e.bytes = b ++ rest →
    e.take b.length = b ∧ e.popBytes b.length = { e with bytes := rest } := by
  induction b with
  | nil => intro e rest h; obtain ⟨⟩ := e; simp_all [Env.take, Env.popBytes]
  | cons x b ih =>
    intro e rest h
    have hp : e.popByte = { e with bytes := b ++ rest } := by simp [Env.popByte, h]
    obtain ⟨h1, h2⟩ := ih e.popByte rest (by rw [hp])
    refine ⟨?_, ?_⟩
    · simp [Env.take, h1, Env.byte, h]
    · rw [List.length_cons, Env.popBytes, h2, hp]

/-- A read that is acknowledged and answered with listed bytes. -/
theorem memRead_acked (addr : Byte) (b : List Byte) (s : State) (acks : List Bool) (bytes : List Byte)
    (h1 : 1 ≤ b.length) (hx : b.length ≤ s.cfg.maxXfer) (ha : s.env.acks = true :: acks) (hb : s.env.bytes = b ++ bytes) :
    memRead addr b.length s = .done b { s with
      env := { s.env with acks := acks, bytes := bytes }
      trace := s.trace ++ [.busRead addr b.length (some b)] } := by
  have hp : s.env.popAck = { s.env with acks := acks } := by simp [Env.popAck, ha]
  obtain ⟨h2, h3⟩ := Env.take_listed b s.env.popAck bytes (by simp [hp, hb])
  simp only [memRead, Env.ack, ha, State.dropAck]
  rw [if_neg (by omega), if_pos trivial, h2]
  simp only [State.dropBytes, State.emit, h3]
  simp [hp]

/-- A read that is not acknowledged. -/
theorem memRead_nacked (addr : Byte) (n : Nat) (s : State) (acks : List Bool)
    (h1 : 1 ≤ n) (hx : n ≤ s.cfg.maxXfer) (ha : s.env.acks = false :: acks) :
    memRead addr n s = .raised .transport { s with
      env := { s.env with acks := acks }, trace := s.trace ++ [.busRead addr n none] } := by
  simp only [memRead, Env.ack, ha]
  rw [if_neg (by omega), if_neg Bool.false_ne_true]
  simp [State.emit, State.dropAck, Env.popAck, ha]

/-- What a sample read leaves. -/
def State.afterSample (s : State) (b : List Byte) (acks : List Bool) (bytes : List Byte) : State :=
  { s with
    env := { s.env with acks := acks, bytes := bytes }
    trace := s.trace ++ [.busRead s.cfg.sampleAddr s.cfg.sampleLen (some b)] }

theorem sampleByte_inside {b : List Byte} {i : Nat} (h : i < b.length) : sampleByte b i = b.getD i 0 := by
  simp [sampleByte, h]

/-- A sample read answered with the right number of bytes: the sample's number, or `NotReadyError` (R183). -/
theorem readSample_answered (s : State) (b : List Byte) (acks : List Bool) (bytes : List Byte) (hw : s.cfg.wf = true)
    (hl : b.length = s.cfg.sampleLen) (ha : s.env.acks = true :: acks) (hb : s.env.bytes = b ++ bytes) :
    readSample s = if freshSample s.cfg b then
        .done (sampleValue s.cfg (resolution s.cfg s.opf) b) (s.afterSample b acks bytes)
      else .raised .notReady (s.afterSample b acks bytes) := by
  simp only [Config.wf, Bool.and_eq_true, Config.wfSampleLen, Config.wfSampleIdx, decide_eq_true_eq] at hw
  obtain ⟨⟨⟨⟨-, hn, hx⟩, hs, hh, ho⟩, -⟩, -⟩ := hw
  have e := memRead_acked s.cfg.sampleAddr b s acks bytes (by omega) (by omega) ha hb
  rw [hl] at e
  simp only [readSample, e, Res.andThen_done]
  rw [sampleByte_inside (by omega), sampleByte_inside (by omega), sampleByte_inside (by omega)]
  by_cases hd : b.getD s.cfg.statusIdx 0 &&& s.cfg.drdyMask = 0
  · rw [if_pos hd, if_neg (by simp only [freshSample, hd]; simp)]
    rfl
  · rw [if_neg hd, if_pos (by simp only [freshSample, hl, ne_eq, hd, not_false_eq_true]; simp)]
    rfl

/-- A sample read that is not acknowledged. -/
theorem readSample_nacked (s : State) (acks : List Bool) (hw : s.cfg.wf = true) (ha : s.env.acks = false :: acks) :
    readSample s = .raised .transport { s with
      env := { s.env with acks := acks }
      trace := s.trace ++ [.busRead s.cfg.sampleAddr s.cfg.sampleLen none] } := by
  simp only [Config.wf, Bool.and_eq_true, Config.wfSampleLen, decide_eq_true_eq] at hw
  obtain ⟨⟨⟨⟨-, hn, hx⟩, -⟩, -⟩, -⟩ := hw
  simp only [readSample, memRead_nacked s.cfg.sampleAddr s.cfg.sampleLen s acks hn hx ha, Res.andThen_raised]

/-! ### Samples of a calibration -/

/-- What reading listed samples leaves. -/
def State.afterSamples (s : State) (new : List Emitted) (acks : List Bool) (bytes : List Byte) : State :=
  { s with env := { s.env with acks := acks, bytes := bytes }, trace := s.trace ++ new }

theorem freshSample_length {c : Config} {b : List Byte} (h : freshSample c b = true) : b.length = c.sampleLen := by
  simp only [freshSample, Bool.and_eq_true, decide_eq_true_eq] at h
  exact h.1

/-- Samples after the first, all fresh. -/
theorem moreSamples_fresh (samples : List (List Byte)) : ∀ (s : State) (acks : List Bool) (bytes : List Byte),
    s.cfg.wf = true → (∀ b ∈ samples, freshSample s.cfg b = true) →
    s.env.acks = List.replicate samples.length true ++ acks → s.env.bytes = samples.flatten ++ bytes →
    moreSamples samples.length s = .done (samples.map (sampleValue s.cfg (resolution s.cfg s.opf)))
      (s.afterSamples (laterReads s.cfg (samples.map some)) acks bytes) := by
  induction samples with
  | nil =>
    intro s acks bytes _ _ ha hb
    obtain rfl : s.env.acks = acks := by simpa using ha
    obtain rfl : s.env.bytes = bytes := by simpa using hb
    simp [moreSamples, State.afterSamples, laterReads]
  | cons b samples ih =>
    intro s acks bytes hw hf ha hb
    have hfb := hf b (by simp)
    simp only [List.length_cons, moreSamples]
    rw [readSample_answered (s.wait s.cfg.calSampleWaitMs) b (List.replicate samples.length true ++ acks)
      (samples.flatten ++ bytes) hw (freshSample_length hfb) (by simpa [List.replicate_succ] using ha) (by simpa using hb)]
    simp only [State.wait_cfg, State.wait_opf, hfb, if_true, Res.andThen_done]
    rw [ih ((s.wait s.cfg.calSampleWaitMs).afterSample b (List.replicate samples.length true ++ acks)
      (samples.flatten ++ bytes)) acks bytes hw (fun v hv => hf v (by simp [hv])) rfl rfl]
    simp [State.afterSamples, State.afterSample, laterReads]

/-- Samples after the first, some fresh and then one that is not: the sampling stops there. -/
theorem moreSamples_stale (samples : List (List Byte)) (stale : List Byte) : ∀ (s : State) (n : Nat) (acks : List Bool)
    (bytes : List Byte), s.cfg.wf = true → (∀ b ∈ samples, freshSample s.cfg b = true) → samples.length < n →
    stale.length = s.cfg.sampleLen → freshSample s.cfg stale = false →
    s.env.acks = List.replicate (samples.length + 1) true ++ acks → s.env.bytes = samples.flatten ++ stale ++ bytes →
    moreSamples n s = .raised .notReady (s.afterSamples (laterReads s.cfg (samples.map some ++ [some stale])) acks bytes) := by
  induction samples with
  | nil =>
    intro s n acks bytes hw _ hn hl hs ha hb
    obtain ⟨n, rfl⟩ : ∃ m, n = m + 1 := ⟨n - 1, by simp at hn; omega⟩
    simp only [moreSamples]
    rw [readSample_answered (s.wait s.cfg.calSampleWaitMs) stale acks bytes hw hl (by simpa using ha) (by simpa using hb)]
    simp only [State.wait_cfg, hs]
    simp [State.afterSamples, State.afterSample, laterReads]
  | cons b samples ih =>
    intro s n acks bytes hw hf hn hl hs ha hb
    have hfb := hf b (by simp)
    obtain ⟨n, rfl⟩ : ∃ m, n = m + 1 := ⟨n - 1, by simp at hn; omega⟩
    simp only [moreSamples]
    rw [readSample_answered (s.wait s.cfg.calSampleWaitMs) b (List.replicate (samples.length + 1) true ++ acks)
      (samples.flatten ++ stale ++ bytes) hw (freshSample_length hfb) (by simpa [List.replicate_succ] using ha)
      (by simpa using hb)]
    simp only [State.wait_cfg, State.wait_opf, hfb, if_true, Res.andThen_done]
    rw [ih ((s.wait s.cfg.calSampleWaitMs).afterSample b (List.replicate (samples.length + 1) true ++ acks)
      (samples.flatten ++ stale ++ bytes)) n acks bytes hw (fun v hv => hf v (by simp [hv])) (by simpa using hn) hl hs
      rfl rfl]
    simp [State.afterSamples, State.afterSample, laterReads]

/-- Step 4 of a calibration, all samples fresh (R210). -/
theorem takeSamples_fresh (samples : List (List Byte)) (s : State) (acks : List Bool) (bytes : List Byte)
    (hw : s.cfg.wf = true) (hf : ∀ b ∈ samples, freshSample s.cfg b = true)
    (ha : s.env.acks = List.replicate samples.length true ++ acks) (hb : s.env.bytes = samples.flatten ++ bytes) :
    takeSamples samples.length s = .done (samples.map (sampleValue s.cfg (resolution s.cfg s.opf)))
      (s.afterSamples (sampleReads s.cfg (samples.map some)) acks bytes) := by
  cases samples with
  | nil =>
    obtain rfl : s.env.acks = acks := by simpa using ha
    obtain rfl : s.env.bytes = bytes := by simpa using hb
    simp [takeSamples, State.afterSamples, sampleReads]
  | cons b samples =>
    have hfb := hf b (by simp)
    simp only [List.length_cons, takeSamples]
    rw [readSample_answered s b (List.replicate samples.length true ++ acks) (samples.flatten ++ bytes) hw
      (freshSample_length hfb) (by simpa [List.replicate_succ] using ha) (by simpa using hb)]
    simp only [hfb, if_true, Res.andThen_done]
    rw [moreSamples_fresh samples (s.afterSample b (List.replicate samples.length true ++ acks)
      (samples.flatten ++ bytes)) acks bytes hw (fun v hv => hf v (by simp [hv])) rfl rfl]
    simp [State.afterSamples, State.afterSample, sampleReads, laterReads]

/-- Step 4 of a calibration whose first samples are fresh and whose next one is not: it raises there (R212). -/
theorem takeSamples_stale (samples : List (List Byte)) (stale : List Byte) (s : State) (n : Nat) (acks : List Bool)
    (bytes : List Byte) (hw : s.cfg.wf = true) (hf : ∀ b ∈ samples, freshSample s.cfg b = true)
    (hn : samples.length < n) (hl : stale.length = s.cfg.sampleLen) (hs : freshSample s.cfg stale = false)
    (ha : s.env.acks = List.replicate (samples.length + 1) true ++ acks)
    (hb : s.env.bytes = samples.flatten ++ stale ++ bytes) :
    takeSamples n s = .raised .notReady (s.afterSamples (sampleReads s.cfg (samples.map some ++ [some stale])) acks bytes) := by
  obtain ⟨n, rfl⟩ : ∃ m, n = m + 1 := ⟨n - 1, by omega⟩
  simp only [takeSamples]
  cases samples with
  | nil =>
    rw [readSample_answered s stale acks bytes hw hl (by simpa using ha) (by simpa using hb)]
    simp [hs, State.afterSamples, State.afterSample, sampleReads, laterReads]
  | cons b samples =>
    have hfb := hf b (by simp)
    rw [readSample_answered s b (List.replicate (samples.length + 1) true ++ acks) (samples.flatten ++ stale ++ bytes)
      hw (freshSample_length hfb) (by simpa [List.replicate_succ] using ha) (by simpa using hb)]
    simp only [hfb, if_true, Res.andThen_done]
    rw [moreSamples_stale samples stale (s.afterSample b (List.replicate (samples.length + 1) true ++ acks)
      (samples.flatten ++ stale ++ bytes)) n acks bytes hw (fun v hv => hf v (by simp [hv])) (by simpa using hn) hl hs
      rfl rfl]
    simp [State.afterSamples, State.afterSample, sampleReads, laterReads]

/-- Samples after the first, some fresh and then a read that is not acknowledged: the sampling stops there. -/
theorem moreSamples_nacked (samples : List (List Byte)) : ∀ (s : State) (n : Nat) (acks : List Bool) (bytes : List Byte),
    s.cfg.wf = true → (∀ b ∈ samples, freshSample s.cfg b = true) → samples.length < n →
    s.env.acks = List.replicate samples.length true ++ false :: acks → s.env.bytes = samples.flatten ++ bytes →
    moreSamples n s = .raised .transport (s.afterSamples (laterReads s.cfg (samples.map some ++ [none])) acks bytes) := by
  induction samples with
  | nil =>
    intro s n acks bytes hw _ hn ha hb
    obtain ⟨n, rfl⟩ : ∃ m, n = m + 1 := ⟨n - 1, by simp at hn; omega⟩
    obtain rfl : s.env.bytes = bytes := by simpa using hb
    simp only [moreSamples]
    rw [readSample_nacked (s.wait s.cfg.calSampleWaitMs) acks hw (by simpa using ha)]
    simp [State.afterSamples, laterReads]
  | cons b samples ih =>
    intro s n acks bytes hw hf hn ha hb
    have hfb := hf b (by simp)
    obtain ⟨n, rfl⟩ : ∃ m, n = m + 1 := ⟨n - 1, by simp at hn; omega⟩
    simp only [moreSamples]
    rw [readSample_answered (s.wait s.cfg.calSampleWaitMs) b (List.replicate samples.length true ++ false :: acks)
      (samples.flatten ++ bytes) hw (freshSample_length hfb) (by simpa [List.replicate_succ] using ha) (by simpa using hb)]
    simp only [State.wait_cfg, State.wait_opf, hfb, if_true, Res.andThen_done]
    rw [ih ((s.wait s.cfg.calSampleWaitMs).afterSample b (List.replicate samples.length true ++ false :: acks)
      (samples.flatten ++ bytes)) n acks bytes hw (fun v hv => hf v (by simp [hv])) (by simpa using hn) rfl rfl]
    simp [State.afterSamples, State.afterSample, laterReads]

/-- Step 4 of a calibration whose first samples are fresh and whose next read is not acknowledged (R212). -/
theorem takeSamples_nacked (samples : List (List Byte)) (s : State) (n : Nat) (acks : List Bool) (bytes : List Byte)
    (hw : s.cfg.wf = true) (hf : ∀ b ∈ samples, freshSample s.cfg b = true) (hn : samples.length < n)
    (ha : s.env.acks = List.replicate samples.length true ++ false :: acks) (hb : s.env.bytes = samples.flatten ++ bytes) :
    takeSamples n s = .raised .transport (s.afterSamples (sampleReads s.cfg (samples.map some ++ [none])) acks bytes) := by
  obtain ⟨n, rfl⟩ : ∃ m, n = m + 1 := ⟨n - 1, by omega⟩
  simp only [takeSamples]
  cases samples with
  | nil =>
    obtain rfl : s.env.bytes = bytes := by simpa using hb
    rw [readSample_nacked s acks hw (by simpa using ha)]
    simp [State.afterSamples, sampleReads, laterReads]
  | cons b samples =>
    have hfb := hf b (by simp)
    rw [readSample_answered s b (List.replicate samples.length true ++ false :: acks) (samples.flatten ++ bytes)
      hw (freshSample_length hfb) (by simpa [List.replicate_succ] using ha) (by simpa using hb)]
    simp only [hfb, if_true, Res.andThen_done]
    rw [moreSamples_nacked samples (s.afterSample b (List.replicate samples.length true ++ false :: acks)
      (samples.flatten ++ bytes)) n acks bytes hw (fun v hv => hf v (by simp [hv])) (by simpa using hn) rfl rfl]
    simp [State.afterSamples, State.afterSample, sampleReads, laterReads]

end Sys2Proof.Machine
end

