-- ==== Sys2Proof/Laws/Calibration.lean ====
section
/-! SUPPORT. What the parts of a calibration do when the environment's answers are listed: the restore, whatever it meets,
and the preparation (R210, R212). -/

namespace Sys2Proof.Machine

/-- A write of the OPF register with its answer listed (R55, R58). -/
theorem writeOpf_answered (v : Byte) (s : State) (a : Bool) (rest : List Bool) (hw : s.cfg.wf = true)
    (ha : s.env.acks = a :: rest) :
    writeOpf v s = if a then .done () { s with
        opf := v, env := { s.env with acks := rest }, trace := s.trace ++ [.busWrite s.cfg.addrOpf [v] true] }
      else .raised .transport { s with
        env := { s.env with acks := rest }, trace := s.trace ++ [.busWrite s.cfg.addrOpf [v] false] } := by
  obtain ⟨hoi, hor, -, -⟩ := Config.wf_distinct hw
  cases a
  · simpa [writeOpf] using memWrite_nacked _ v s rest (Config.wf_maxXfer hw) ha
  · simpa [writeOpf, hoi] using memWrite_acked _ v s rest (Config.wf_maxXfer hw) hor ha

/-- A write of the INTSRS register with its answer listed (R55, R58). -/
theorem writeIntsrs_answered (v : Byte) (s : State) (a : Bool) (rest : List Bool) (hw : s.cfg.wf = true)
    (ha : s.env.acks = a :: rest) :
    writeIntsrs v s = if a then .done () { s with
        intsrs := v, env := { s.env with acks := rest }, trace := s.trace ++ [.busWrite s.cfg.addrIntsrs [v] true] }
      else .raised .transport { s with
        env := { s.env with acks := rest }, trace := s.trace ++ [.busWrite s.cfg.addrIntsrs [v] false] } := by
  obtain ⟨hoi, -, hir, -⟩ := Config.wf_distinct hw
  cases a
  · simpa [writeIntsrs] using memWrite_nacked _ v s rest (Config.wf_maxXfer hw) ha
  · simpa [writeIntsrs, hoi.symm] using memWrite_acked _ v s rest (Config.wf_maxXfer hw) hir ha

theorem writeIntsrs_caught (v : Byte) (s : State) (a : Bool) (rest : List Bool) (failed : Bool) (hw : s.cfg.wf = true)
    (ha : s.env.acks = a :: rest) :
    (writeIntsrs v s).caught failed = (failed || !a, { s with
      intsrs := if a then v else s.intsrs, env := { s.env with acks := rest }
      trace := s.trace ++ [.busWrite s.cfg.addrIntsrs [v] a] }) := by
  rw [writeIntsrs_answered v s a rest hw ha]
  cases a <;> simp

theorem writeOpf_caught (v : Byte) (s : State) (a : Bool) (rest : List Bool) (failed : Bool) (hw : s.cfg.wf = true)
    (ha : s.env.acks = a :: rest) :
    (writeOpf v s).caught failed = (failed || !a, { s with
      opf := if a then v else s.opf, env := { s.env with acks := rest }
      trace := s.trace ++ [.busWrite s.cfg.addrOpf [v] a] }) := by
  rw [writeOpf_answered v s a rest hw ha]
  cases a <;> simp

/-- The restore's line request, made only where a line had been attached (R210). -/
theorem reattach_caught (was : Bool) (s : State) (g : Option Handle) (grants : List (Option Handle)) (failed : Bool)
    (hg : was = true → s.env.grants = g :: grants) :
    (reattach was s).caught failed = (failed || (was && !g.isSome), { s with
      irqHandle := if was && g.isSome then g else s.irqHandle
      irqAttached := (was && g.isSome) || s.irqAttached
      env := { s.env with grants := if was then grants else s.env.grants }
      trace := s.trace ++ if was then [requestEvent s g] else [] }) := by
  cases was
  · simp [reattach]
  · have h := hg rfl
    cases g <;>
      simp [reattach, irqAttach, Env.grant, h, State.dropGrant, State.emit, Env.popGrant, requestEvent, requestProps]

/-- The restore's return to PowerDown, made only on a block that is not enabled (R210). -/
theorem powerDownIfDisabled_caught (s : State) (a : Bool) (acks : List Bool) (failed : Bool) (hw : s.cfg.wf = true)
    (ha : s.env.acks = (if s.enabled then [] else [a]) ++ acks) :
    (powerDownIfDisabled s).caught failed = (failed || (!s.enabled && !a), { s with
      opf := if !s.enabled && a then offOpf s else s.opf
      irqAttached := s.enabled && s.irqAttached
      irqHandle := if !s.enabled && s.irqAttached then none else s.irqHandle
      env := { s.env with acks := acks }
      trace := s.trace ++ if s.enabled then [] else releaseEvents s ++ [.busWrite s.cfg.addrOpf [offOpf s] a] }) := by
  cases he : s.enabled
  · simp only [he, Bool.false_eq_true, if_false] at ha
    cases hl : s.irqAttached
    · have h := writeOpf_caught (offOpf s) s a acks failed hw ha
      simpa [powerDownIfDisabled, he, setModePd, detachIfAttached, hl, releaseEvents, offOpf, clearBit] using h
    · have h := writeOpf_caught (offOpf s) (irqDetach s) a acks failed hw ha
      simpa [powerDownIfDisabled, he, setModePd, detachIfAttached, hl, releaseEvents, offOpf, clearBit, irqDetach,
        State.emit] using h
  · simp only [he, if_true, List.nil_append] at ha
    subst ha
    obtain ⟨⟩ := s
    simp_all [powerDownIfDisabled]

/-- The restore of a calibration that began in `s`, run in `m`: every step is attempted, and each has its effect exactly
where its answer is good (R210). -/
theorem calRestore_listed {s m : State} (r : RestoreAnswers) (failed : Bool) (acks : List Bool)
    (grants : List (Option Handle)) (hw : s.cfg.wf = true) (hc : m.cfg = s.cfg) (he : m.enabled = s.enabled)
    (hl : m.irqAttached = false) (hh : m.irqHandle = if s.irqAttached then none else s.irqHandle)
    (ho : restoredOpf s.cfg m.opf s.opf = measuringOpf s) (ha : m.env.acks = r.acks s ++ acks)
    (hg : s.irqAttached = true → m.env.grants = r.grant :: grants) :
    calRestore s failed m = (failed || !r.allGood s, { restored s m r with
      env := { m.env with acks := acks, grants := if s.irqAttached then grants else m.env.grants } }) := by
  have hm : m.cfg.wf = true := by rw [hc]; exact hw
  obtain ⟨ri, rg, ro, rf⟩ := r
  unfold calRestore
  rw [writeIntsrs_caught _ m ri (ro :: ((if s.enabled then [] else [rf]) ++ acks)) failed hm
    (by rw [ha]; rfl)]
  dsimp only
  rw [reattach_caught _ _ rg grants]
  · dsimp only
    rw [writeOpf_caught (a := ro) (rest := (if s.enabled then [] else [rf]) ++ acks)]
    · dsimp only
      rw [powerDownIfDisabled_caught (a := rf) (acks := acks)]
      · simp only [offOpf, releaseEvents, requestEvent, hc, he, hl, hh, ho, restored, RestoreAnswers.holds,
          RestoreAnswers.allGood]
        have attached := Bool.eq_false_or_eq_true s.irqAttached
        have enabled := Bool.eq_false_or_eq_true s.enabled
        rcases attached with hs | hs <;> rcases enabled with hn | hn <;> rcases rg with _ | g <;>
          simp [hs, hn, Bool.or_assoc]
      · exact hm
      · simp [he]
    · exact hm
    · rfl
  · exact hg

/-! ### The preparation -/

/-- The state with the line released, as a calibration leaves it in its first step. -/
def State.lineReleased (s : State) : State :=
  { s with irqAttached := false, irqHandle := if s.irqAttached then none else s.irqHandle
           trace := s.trace ++ releaseEvents s }

theorem detachIfAttached_eq (s : State) : detachIfAttached s = s.lineReleased := by
  cases h : s.irqAttached
  · obtain ⟨⟩ := s
    simp_all [detachIfAttached, State.lineReleased, releaseEvents]
  · simp [detachIfAttached, State.lineReleased, releaseEvents, h, irqDetach, State.emit]

/-- Step 3 computes its second OPF value from the first, which differs only in the active bit. -/
theorem calOpf_from_off (s : State) :
    setBit (clearBit (setField (offOpf s) s.cfg.opfFreqMask s.cfg.freq40Hz) s.cfg.opfFuse) s.cfg.opfActive = calOpf s := by
  refine byte_ext fun i hi => ?_
  simp only [calOpf, offOpf, setBit, clearBit, setField, BitVec.getLsbD_and, BitVec.getLsbD_or, BitVec.getLsbD_not, hi,
    decide_true, Bool.true_and]
  cases s.cfg.opfActive.getLsbD i <;> simp

/-- The preparation with its three writes acknowledged (R210). -/
theorem calPrepare_acked {s : State} (rest : List Bool) (hw : s.cfg.wf = true) (hl : s.irqAttached = false)
    (ha : s.env.acks = true :: true :: true :: rest) :
    calPrepare s = .done () { s with
      opf := calOpf s, intsrs := calIntsrs s, env := { s.env with acks := rest }
      trace := s.trace ++ acknowledged (calibrationWrites s) ++ [.wait s.cfg.calFirstWaitMs] } := by
  simp only [calPrepare]
  rw [writeIntsrs_answered _ s true _ hw ha]
  simp only [if_true, Res.andThen_done, setModePd, detachIfAttached, hl, Bool.false_eq_true, if_false]
  rw [writeOpf_answered (a := true) (rest := true :: rest)]
  · simp only [if_true, Res.andThen_done]
    rw [writeOpf_answered (a := true) (rest := rest)]
    · have h := calOpf_from_off s
      simp only [offOpf] at h
      simp [State.wait, State.emit, acknowledged, calibrationWrites, calIntsrs, offOpf, ← h, clearBit, setField]
    · exact hw
    · rfl
  · exact hw
  · rfl

/-- The preparation whose write after the first `k` is not acknowledged (R212). -/
theorem calPrepare_stopped {s : State} (k : Nat) (rest : List Bool) (hk : k < 3) (hw : s.cfg.wf = true)
    (hl : s.irqAttached = false) (ha : s.env.acks = List.replicate k true ++ false :: rest) :
    calPrepare s = .raised .transport { s with
      opf := lastWritten s.cfg.addrOpf s.opf (stoppedAt k (calibrationWrites s))
      intsrs := lastWritten s.cfg.addrIntsrs s.intsrs (stoppedAt k (calibrationWrites s))
      env := { s.env with acks := rest }, trace := s.trace ++ stoppedAt k (calibrationWrites s) } := by
  obtain ⟨hoi, -, -, -⟩ := Config.wf_distinct hw
  have h := calOpf_from_off s
  simp only [offOpf] at h
  simp only [calPrepare]
  match k, hk with
  | 0, _ =>
    rw [writeIntsrs_answered _ s false rest hw (by simpa using ha)]
    simp [stoppedAt, acknowledged, calibrationWrites, lastWritten, calIntsrs, clearBit, setField]
  | 1, _ =>
    rw [writeIntsrs_answered _ s true (false :: rest) hw (by simpa using ha)]
    simp only [if_true, Res.andThen_done, setModePd, detachIfAttached, hl, Bool.false_eq_true, if_false]
    rw [writeOpf_answered (a := false) (rest := rest)]
    · simp [stoppedAt, acknowledged, calibrationWrites, lastWritten, calIntsrs, offOpf, clearBit, setField, hoi.symm]
    · exact hw
    · rfl
  | 2, _ =>
    rw [writeIntsrs_answered _ s true (true :: false :: rest) hw (by simpa using ha)]
    simp only [if_true, Res.andThen_done, setModePd, detachIfAttached, hl, Bool.false_eq_true, if_false]
    rw [writeOpf_answered (a := true) (rest := false :: rest)]
    · simp only [if_true, Res.andThen_done]
      rw [writeOpf_answered (a := false) (rest := rest)]
      · simp [stoppedAt, acknowledged, calibrationWrites, lastWritten, calIntsrs, offOpf, ← h, clearBit, setField, hoi]
      · exact hw
      · rfl
    · exact hw
    · rfl

/-! ### The whole procedure -/

/-- The state in which the sampling of a calibration begins, when its three writes are acknowledged. -/
def State.calibrating (s : State) (acks : List Bool) : State :=
  { s.lineReleased with
    opf := calOpf s, intsrs := calIntsrs s, env := { s.env with acks := acks }
    trace := s.trace ++ releaseEvents s ++ acknowledged (calibrationWrites s) ++ [.wait s.cfg.calFirstWaitMs] }

/-- What a calibration measures is what its samples give, once its three writes are acknowledged. -/
theorem calMeasure_prepared {s : State} (rest : List Bool) (hw : s.cfg.wf = true)
    (ha : s.env.acks = true :: true :: true :: rest) :
    calMeasure (detachIfAttached s) = (takeSamples s.cfg.calN (s.calibrating rest)).andThen fun vs t =>
      .done () { t with calRef := meanOf vs t.cfg.calN } := by
  unfold calMeasure
  rw [detachIfAttached_eq, calPrepare_acked rest (s := s.lineReleased) hw rfl ha]
  rfl

/-- A calibration whose measuring ends in `m`, and then the restore (R210): it fails where the measuring raised or a step
of the restore failed. -/
theorem calibrate_listed {s m : State} (r : RestoreAnswers) (acks : List Bool) (grants : List (Option Handle))
    (hm : (calMeasure (detachIfAttached s)).state = m) (hw : s.cfg.wf = true) (hc : m.cfg = s.cfg)
    (he : m.enabled = s.enabled) (hl : m.irqAttached = false)
    (hh : m.irqHandle = if s.irqAttached then none else s.irqHandle)
    (ho : restoredOpf s.cfg m.opf s.opf = measuringOpf s) (ha : m.env.acks = r.acks s ++ acks)
    (hg : s.irqAttached = true → m.env.grants = r.grant :: grants) :
    calibrate s = (((calMeasure (detachIfAttached s)).caught false).1 || !r.allGood s, { restored s m r with
      env := { m.env with acks := acks, grants := if s.irqAttached then grants else m.env.grants } }) := by
  unfold calibrate
  rw [← calRestore_listed r _ acks grants hw hc he hl hh ho ha hg]
  simp only [Res.caught_state, hm]

/-- A calibration command ends as its calibration does (R214 to R216). -/
theorem exec_calibration {i : Instr} {s t : State} {failed : Bool} (hi : i = .cal ∨ i = .calpass1 ∨ i = .calpass2)
    (h : calibrate s = (failed, t)) :
    exec i s = .next (if failed then { t with status := 5, result := 0 } else { t with
      status := 0, result := t.calRef.signExtend 32
      calHighDone := t.calHighDone || i == .calpass1, calLowDone := t.calLowDone || i == .calpass2 }) := by
  rcases hi with rfl | rfl | rfl <;>
    simp only [exec, execCal, execCalpass1, execCalpass2, calibrationCommand, h, commandEnds] <;>
    cases failed <;> simp [State.raise, State.complete, Err.code, s16Result]

end Sys2Proof.Machine
end

