-- ==== Sys2Proof/Laws/Encoding.lean ====
section
/-! SUPPORT. The bits and fields of a packed word and of a byte pair. -/

namespace Sys2Proof

theorem getLsbD_pack (op a : Byte) (imm : Half) (i : Nat) : (packWord op a imm).getLsbD i =
    if i < 16 then imm.getLsbD i else if i < 24 then a.getLsbD (i - 16) else op.getLsbD (i - 24) := by
  unfold packWord
  rw [BitVec.getLsbD_append, BitVec.getLsbD_append]
  grind

theorem getLsbD_pair (hi lo : Byte) (i : Nat) : (bytePair hi lo).getLsbD i =
    if i < 8 then lo.getLsbD i else hi.getLsbD (i - 8) := by
  unfold bytePair
  rw [BitVec.getLsbD_append]

@[simp] theorem opField_pack (op a : Byte) (imm : Half) : opField (packWord op a imm) = op := by
  ext i hi
  simp [opField, getLsbD_pack]
  grind

@[simp] theorem aField_pack (op a : Byte) (imm : Half) : aField (packWord op a imm) = a := by
  ext i hi
  simp [aField, getLsbD_pack]
  grind

@[simp] theorem immField_pack (op a : Byte) (imm : Half) : immField (packWord op a imm) = imm := by
  ext i hi
  simp [immField, getLsbD_pack]
  grind

@[simp] theorem hiByte_pair (hi lo : Byte) : hiByte (bytePair hi lo) = hi := by
  ext i h
  simp [hiByte, getLsbD_pair]
  grind

@[simp] theorem loByte_pair (hi lo : Byte) : loByte (bytePair hi lo) = lo := by
  ext i h
  simp [loByte, getLsbD_pair, h]

theorem pack_fields (w : Word) : packWord (opField w) (aField w) (immField w) = w := by
  apply BitVec.eq_of_getLsbD_eq
  intro i h
  simp [opField, aField, immField, getLsbD_pack]
  grind

theorem pair_bytes (imm : Half) : bytePair (hiByte imm) (loByte imm) = imm := by
  apply BitVec.eq_of_getLsbD_eq
  intro i h
  simp [hiByte, loByte, getLsbD_pair]
  grind

@[simp] theorem decode_pack (op a : Byte) (imm : Half) : decode (packWord op a imm) = decodeFields op a imm := by
  simp [decode]

end Sys2Proof
end

