-- ==== Sys2Proof/Laws/Commands.lean ====
section
/-! SUPPORT. Every command goes on to a next state, and a relation kept by everything the commands do is kept by every
command. -/

namespace Sys2Proof.Machine

/-- A relation kept by everything a command does. -/
structure KeptByCommands (W : Config → Access → Prop) (R : State → State → Prop) : Prop extends
    KeptByLine W R, KeptByPass W R where
  ends : ∀ (s : State) w c, R s { s with result := w, status := c }
  lifecycle : ∀ (s : State) b, R s { s with enabled := b }
  delay : ∀ (s : State) d, R s { s with delay := d }
  debug : ∀ (s : State) b, R s { s with debug := b }
  high : ∀ (s : State) v, R s { s with th := v }
  low : ∀ (s : State) v, R s { s with tl := v }
  polarity : ∀ (s : State) v, R s { s with pol := v }
  reference : ∀ (s : State) vs, R s { s with calRef := meanOf vs s.cfg.calN }
  highDone : ∀ (s : State), R s { s with calHighDone := true }
  lowDone : ∀ (s : State), R s { s with calLowDone := true }

variable {W : Config → Access → Prop} {R : State → State → Prop}

theorem KeptByCommands.finish (k : KeptByCommands W R) {s : State} {r : Res Word} (h : R s r.state) : R s r.finish := by
  obtain ⟨w, c, e⟩ := r.finish_eq
  rw [e]
  exact k.trans h (k.ends _ _ _)

/-- A command's outcome is a next state, and the relation holds between. -/
theorem KeptByCommands.commandEnds (k : KeptByCommands W R) {s : State} {r : Res Word} (h : R s r.state) :
    ∃ t, commandEnds r = .next t ∧ R s t := ⟨_, rfl, k.finish h⟩

theorem KeptByCommands.enableTransition (k : KeptByCommands W R)
    (hw : Allows W fun c => opfAccess c ++ passAccess c) (s : State) : R s (enableTransition s).state :=
  k.andThen (k.setDetCurrent hw.right.left.left hw.right.left.right s) fun _ t _ =>
    k.andThen (k.setModeMeas hw.left t) fun _ u _ => k.trans (k.startDelivery hw.right u) (k.lifecycle _ true)

theorem KeptByCommands.disableTransition (k : KeptByCommands W R) (hw : Allows W opfAccess) (s : State) :
    R s (disableTransition s).state :=
  k.andThen (k.trans (k.cancelAndWait s) (k.setModePd hw _)) fun _ t _ => k.lifecycle t false

theorem KeptByPass.reschedule (k : KeptByPass W R) (s : State) : R s (reschedule s) := by
  unfold Machine.reschedule
  split
  · exact k.trans (k.cancelAndWait s) (k.schedule _ _)
  · exact k.refl s

theorem KeptByCommands.calibrationCommand (k : KeptByCommands W R) (hw : Allows W calibrationAccess)
    (mark : State → State) (s : State) (hm : ∀ t, R t (mark t)) : R s (calibrationCommand mark s).state := by
  have h := k.calibrate hw s k.reference
  unfold Machine.calibrationCommand
  split
  rename_i failed t e
  rw [e] at h
  split
  · exact h
  · exact k.trans h (hm t)

/-- Every command answers a next state, and every relation kept by what commands do relates it to the one before, if the
command's own accesses are allowed (R52). -/
theorem KeptByCommands.exec (k : KeptByCommands W R) (i : Instr) (s : State) (hw : Allows W fun c => commandAccess c i) :
    ∃ t, exec i s = .next t ∧ R s t := by
  cases i with
  | updthr => exact k.commandEnds (by rw [Res.noResult_state]; exact k.updateThresholds hw s)
  | modePd => exact k.commandEnds (by rw [Res.noResult_state]; exact k.setModePd hw s)
  | modeMeas => exact k.commandEnds (by rw [Res.noResult_state]; exact k.setModeMeas hw s)
  | modeFuse => exact k.commandEnds (by rw [Res.noResult_state]; exact k.setModeFuse hw s)
  | setdetPoll => exact k.commandEnds (by rw [Res.noResult_state]; exact k.setDetPoll hw s)
  | setdetInt => exact k.commandEnds (by rw [Res.noResult_state]; exact k.setDetInt hw.left hw.right s)
  | enable =>
    refine k.commandEnds ?_
    split
    · exact k.refl s
    · rw [Res.noResult_state]; exact k.enableTransition hw s
  | disable =>
    refine k.commandEnds ?_
    split
    · rw [Res.noResult_state]; exact k.disableTransition hw s
    · exact k.refl s
  | setdly ms => exact k.commandEnds (k.trans (k.delay s _) (k.reschedule _))
  | setdbg b => exact k.commandEnds (k.debug s b)
  | setth v => exact k.commandEnds (k.high s v)
  | settl v => exact k.commandEnds (k.low s v)
  | setpol v => exact k.commandEnds (k.polarity s v)
  | cal => exact k.commandEnds (k.calibrationCommand hw _ s k.refl)
  | calpass1 => exact k.commandEnds (k.calibrationCommand hw _ s k.highDone)
  | calpass2 => exact k.commandEnds (k.calibrationCommand hw _ s k.lowDone)
  | calapply1 =>
    refine k.commandEnds ?_
    simp only [Res.state_done]
    split
    · exact k.high s _
    · exact k.low s _
  | calapply2 =>
    refine k.commandEnds ?_
    simp only [Res.state_done]
    split
    · exact k.low s _
    · exact k.high s _
  | regrd a => exact k.commandEnds (k.andThen (k.readByte a s (hw _ _ (by simp [commandAccess]))) fun _ t _ => k.refl t)
  | regwr a v => exact k.commandEnds (by rw [Res.noResult_state]; exact k.memWrite a _ s (hw _ _ (by simp [commandAccess])))
  | chkid => exact k.commandEnds (k.andThen (k.readByte _ s (hw _ _ (by simp [commandAccess]))) fun _ t _ => k.refl t)
  | _ => exact k.commandEnds (k.refl s)

end Sys2Proof.Machine
end

