-- ==== Sys2Proof/Laws/PerInstr.lean ====
section
/-! SUPPORT. The per-instruction family: the word of every command matches the command's own row of R78's table. -/

namespace Sys2Proof.Laws.EncodeMatchesRow

/-- The word of a command hits the row of the opcode map that R78 gives the command (R71 to R78). -/
def Statement (i : Instr) : Prop := ∃ r, opcodeMap[rowIndex i]? = some r ∧ r.hits (encode i) = true

/-- A word whose fields are the row's under the row's mask hits the row. -/
theorem hits_pack {r : OpcodeRow} {op a : Byte} {imm : Half}
    (ho : op &&& opField r.mask = opField r.pattern) (ha : a &&& aField r.mask = aField r.pattern)
    (hi : imm &&& immField r.mask = immField r.pattern) : r.hits (packWord op a imm) = true := by
  have e : packWord op a imm &&& r.mask = r.pattern := by
    rw [← pack_fields r.pattern, ← ho, ← ha, ← hi]
    apply BitVec.eq_of_getLsbD_eq
    intro i h
    simp only [BitVec.getLsbD_and, getLsbD_pack, opField, aField, immField, BitVec.getLsbD_extractLsb']
    grind
  simp [OpcodeRow.hits, e]

theorem enc8 (v : Half) : Statement (.enc8 v) := ⟨_, rfl, hits_pack (by decide) (by decide) BitVec.and_zero⟩

theorem enc10 (v : Half) : Statement (.enc10 v) := ⟨_, rfl, hits_pack (by decide) (by decide) BitVec.and_zero⟩

theorem dec8 (hi lo : Byte) : Statement (.dec8 hi lo) :=
  ⟨_, rfl, hits_pack (by decide) (by decide) (BitVec.and_zero)⟩

theorem dec10 (hi lo : Byte) : Statement (.dec10 hi lo) :=
  ⟨_, rfl, hits_pack (by decide) (by decide) (BitVec.and_zero)⟩

theorem cls (v : Half) : Statement (.cls v) := ⟨_, rfl, hits_pack (by decide) (by decide) BitVec.and_zero⟩

theorem updthr : Statement .updthr := ⟨_, rfl, by decide⟩

theorem getzone : Statement .getzone := ⟨_, rfl, by decide⟩

theorem modePd : Statement .modePd := ⟨_, rfl, by decide⟩

theorem modeMeas : Statement .modeMeas := ⟨_, rfl, by decide⟩

theorem modeFuse : Statement .modeFuse := ⟨_, rfl, by decide⟩

theorem setdetPoll : Statement .setdetPoll := ⟨_, rfl, by decide⟩

theorem setdetInt : Statement .setdetInt := ⟨_, rfl, by decide⟩

theorem enable : Statement .enable := ⟨_, rfl, by decide⟩

theorem disable : Statement .disable := ⟨_, rfl, by decide⟩

theorem setdly (v : Half) : Statement (.setdly v) := ⟨_, rfl, hits_pack (by decide) (by decide) BitVec.and_zero⟩

theorem geten : Statement .geten := ⟨_, rfl, by decide⟩

theorem getdly : Statement .getdly := ⟨_, rfl, by decide⟩

theorem setdbg (b : Bool) : Statement (.setdbg b) := ⟨_, rfl, by cases b <;> decide⟩

theorem getdbg : Statement .getdbg := ⟨_, rfl, by decide⟩

theorem setth (v : Half) : Statement (.setth v) := ⟨_, rfl, hits_pack (by decide) (by decide) BitVec.and_zero⟩

theorem getth : Statement .getth := ⟨_, rfl, by decide⟩

theorem settl (v : Half) : Statement (.settl v) := ⟨_, rfl, hits_pack (by decide) (by decide) BitVec.and_zero⟩

theorem gettl : Statement .gettl := ⟨_, rfl, by decide⟩

theorem setpol (v : Half) : Statement (.setpol v) := ⟨_, rfl, hits_pack (by decide) (by decide) BitVec.and_zero⟩

theorem getpol : Statement .getpol := ⟨_, rfl, by decide⟩

theorem cal : Statement .cal := ⟨_, rfl, by decide⟩

theorem calpass1 : Statement .calpass1 := ⟨_, rfl, by decide⟩

theorem calpass2 : Statement .calpass2 := ⟨_, rfl, by decide⟩

theorem getref : Statement .getref := ⟨_, rfl, by decide⟩

theorem getcalst : Statement .getcalst := ⟨_, rfl, by decide⟩

theorem calapply1 : Statement .calapply1 := ⟨_, rfl, by decide⟩

theorem calapply2 : Statement .calapply2 := ⟨_, rfl, by decide⟩

theorem regrd (addr : Byte) : Statement (.regrd addr) :=
  ⟨_, rfl, hits_pack (by decide) (BitVec.and_zero) (by decide)⟩

theorem regwr (addr value : Byte) : Statement (.regwr addr value) := by
  have hi : bytePair 0 value &&& 0xFF00 = 0 := by
    have hm : ∀ i, i < 8 → (0xFF00 : Half).getLsbD i = false := by decide
    apply BitVec.eq_of_getLsbD_eq
    intro i h
    rw [BitVec.getLsbD_and, getLsbD_pair]
    split
    · exact (congrArg (value.getLsbD i && ·) (hm i ‹_›)).trans (by simp)
    · simp
  exact ⟨_, rfl, hits_pack (by decide) BitVec.and_zero hi⟩

theorem chkid : Statement .chkid := ⟨_, rfl, by decide⟩

theorem getshadowOpf : Statement .getshadowOpf := ⟨_, rfl, by decide⟩

theorem getshadowIntsrs : Statement .getshadowIntsrs := ⟨_, rfl, by decide⟩

end Sys2Proof.Laws.EncodeMatchesRow
end

