-- ==== Sys2Proof/Tests/Slice0.lean ====
section
/-! SUPPORT. Our own tests: the smoke test of the well-formedness checks, one word for every constructor written out
from 30_encoding.md, single steps with the results 95_test_vectors.md gives, and for each statement with hypotheses a
concrete state that meets them. -/

namespace Sys2Proof.Tests

open Sys2Proof Sys2Proof.Machine

/-! ### Helpers -/

/-- S0 of 95_test_vectors.md, with the answers the environment will give. -/
def s0 (acks : List Bool) (bytes : List Byte) (grants : List (Option Handle)) : State :=
  { State.reset with env := { events := [], acks := acks, bytes := bytes, grants := grants, draws := 0 } }

/-- The events offered to a state. -/
def offered (s : State) (es : List Event) : State := { s with env := { s.env with events := es } }

/-- The next state of an outcome is as the check says. -/
def nextIs (o : Host.Outcome State Fault Refusal) (check : State → Bool) : Bool :=
  match o with
  | .next t => check t
  | .fault _ => false
  | .refused _ => false

/-- The command completes with this status and this result. -/
def gives (i : Instr) (s : State) (status : Byte) (result : Word) : Bool :=
  nextIs (exec i s) fun t => t.status == status && t.result == result

/-- The command completes with this status and emits this. -/
def emits (i : Instr) (s : State) (status : Byte) (new : List Emitted) : Bool :=
  nextIs (exec i s) fun t => t.status == status && t.trace == s.trace ++ new

/-- The step goes on and emits this. -/
def stepEmits (s : State) (new : List Emitted) (check : State → Bool) : Bool :=
  nextIs (step s) fun t => t.trace == s.trace ++ new && check t

/-- Thresholds 150 and −180, the spec's usual pair. -/
def wide (s : State) : State := { s with th := 150, tl := -180 }

/-- Measurement mode at 10 bits, enabled, polling, one pass owed (the start of X1). -/
def polling (acks : List Bool) (bytes : List Byte) : State :=
  { wide (s0 acks bytes []) with opf := 0x11, enabled := true, pol := 1, pending := true }

/-- Interrupt mode with line 1 attached and one pass owed (the start of X7). -/
def interrupt (acks : List Bool) (bytes : List Byte) : State :=
  { wide (s0 acks bytes [some 2]) with
    opf := 0x11, intsrs := 0x80, pol := 1, irqAttached := true, irqHandle := some 1, pending := true, enabled := true }

/-- The five threshold writes, all acknowledged. -/
def five (hh hl lh ll : Byte) : List Emitted :=
  [.busWrite 0x21 [hh] true, .busWrite 0x22 [hl] true, .busWrite 0x23 [lh] true, .busWrite 0x24 [ll] true,
   .busWrite 0x25 [0x01] true]

/-- Ready 10-bit samples of the value 5. -/
def fives (n : Nat) : List Byte := (List.replicate n [0x01, 0x00, 0x05]).flatten

/-! ### Well-formedness: an ill-formed term for each check -/

theorem test_wf_refcfg : Config.refcfg.wf = true := by decide
theorem test_wf_oneBit_two_bits : ({ Config.refcfg with opfActive := 0x21 } : Config).wfOneBit = false := by decide
theorem test_wf_oneBit_no_bit : ({ Config.refcfg with intsrsDet := 0x00 } : Config).wfOneBit = false := by decide
theorem test_wf_opfMasks : ({ Config.refcfg with opfFreqMask := 0x1C } : Config).wfOpfMasks = false := by decide
theorem test_wf_intsrsMasks : ({ Config.refcfg with intsrsSensMask := 0xC7 } : Config).wfIntsrsMasks = false := by decide
theorem test_wf_inside : ({ Config.refcfg with freq40Hz := 0x2C } : Config).wfInside = false := by decide
theorem test_wf_distinctCodes : ({ Config.refcfg with typeBeside := 0x00 } : Config).wfDistinctCodes = false := by decide
theorem test_wf_addresses : ({ Config.refcfg with addrLatch := 0x21 } : Config).wfAddresses = false := by decide
theorem test_wf_sampleLen_zero : ({ Config.refcfg with sampleLen := 0 } : Config).wfSampleLen = false := by decide
theorem test_wf_sampleLen_long : ({ Config.refcfg with sampleLen := 18 } : Config).wfSampleLen = false := by decide
theorem test_wf_sampleIdx : ({ Config.refcfg with loIdx := 3 } : Config).wfSampleIdx = false := by decide
theorem test_wf_delay : ({ Config.refcfg with delayReset := 9 } : Config).wfDelay = false := by decide
theorem test_wf_calN : ({ Config.refcfg with calN := 0 } : Config).wfCalN = false := by decide
theorem test_wf_whole : ({ Config.refcfg with calN := 0 } : Config).wf = false := by decide
theorem test_wf_s16 : (fitsS16 (-32768), fitsS16 (-32769), fitsS16 32767, fitsS16 32768) = (true, false, true, false) := by
  decide
theorem test_wf_u16 : (fitsU16 0, fitsU16 (-1), fitsU16 65535, fitsU16 65536) = (true, false, true, false) := by decide
theorem test_wf_u8 : (fitsU8 0, fitsU8 (-1), fitsU8 255, fitsU8 256) = (true, false, true, false) := by decide
theorem test_wf_bit : (fitsBit 0, fitsBit 1, fitsBit 2, fitsBit (-1)) = (true, true, false, false) := by decide

/-! ### Decoding: one word for each row of R78, its fields written out from the row -/

theorem test_decode_enc8 : decode 0x0100FF9C = .ok (.enc8 0xFF9C) := rfl
theorem test_decode_enc10 : decode 0x010101FF = .ok (.enc10 0x01FF) := rfl
theorem test_decode_dec8 : decode 0x0200FF7F = .ok (.dec8 0xFF 0x7F) := rfl
theorem test_decode_dec10 : decode 0x0201C05B = .ok (.dec10 0xC0 0x5B) := rfl
theorem test_decode_cls : decode 0x1000FF4C = .ok (.cls 0xFF4C) := rfl
theorem test_decode_updthr : decode 0x11000000 = .ok .updthr := rfl
theorem test_decode_getzone : decode 0x12000000 = .ok .getzone := rfl
theorem test_decode_modePd : decode 0x20000000 = .ok .modePd := rfl
theorem test_decode_modeMeas : decode 0x20010000 = .ok .modeMeas := rfl
theorem test_decode_modeFuse : decode 0x20020000 = .ok .modeFuse := rfl
theorem test_decode_setdetPoll : decode 0x21000000 = .ok .setdetPoll := rfl
theorem test_decode_setdetInt : decode 0x21010000 = .ok .setdetInt := rfl
theorem test_decode_enable : decode 0x22000000 = .ok .enable := rfl
theorem test_decode_disable : decode 0x23000000 = .ok .disable := rfl
theorem test_decode_setdly : decode 0x240001F4 = .ok (.setdly 500) := rfl
theorem test_decode_geten : decode 0x25000000 = .ok .geten := rfl
theorem test_decode_getdly : decode 0x26000000 = .ok .getdly := rfl
theorem test_decode_setdbg : decode 0x27010000 = .ok (.setdbg true) := rfl
theorem test_decode_getdbg : decode 0x28000000 = .ok .getdbg := rfl
theorem test_decode_setth : decode 0x30008000 = .ok (.setth 0x8000) := rfl
theorem test_decode_getth : decode 0x31000000 = .ok .getth := rfl
theorem test_decode_settl : decode 0x3200FF4C = .ok (.settl 0xFF4C) := rfl
theorem test_decode_gettl : decode 0x33000000 = .ok .gettl := rfl
theorem test_decode_setpol : decode 0x3400FFFF = .ok (.setpol 0xFFFF) := rfl
theorem test_decode_getpol : decode 0x35000000 = .ok .getpol := rfl
theorem test_decode_cal : decode 0x40000000 = .ok .cal := rfl
theorem test_decode_calpass1 : decode 0x41010000 = .ok .calpass1 := rfl
theorem test_decode_calpass2 : decode 0x41020000 = .ok .calpass2 := rfl
theorem test_decode_getref : decode 0x42000000 = .ok .getref := rfl
theorem test_decode_getcalst : decode 0x43000000 = .ok .getcalst := rfl
theorem test_decode_calapply1 : decode 0x44010000 = .ok .calapply1 := rfl
theorem test_decode_calapply2 : decode 0x44020000 = .ok .calapply2 := rfl
theorem test_decode_regrd : decode 0x50300000 = .ok (.regrd 0x30) := rfl
theorem test_decode_regwr : decode 0x513F0001 = .ok (.regwr 0x3F 0x01) := rfl
theorem test_decode_chkid : decode 0x52000000 = .ok .chkid := rfl
theorem test_decode_getshadowOpf : decode 0x53000000 = .ok .getshadowOpf := rfl
theorem test_decode_getshadowIntsrs : decode 0x53010000 = .ok .getshadowIntsrs := rfl

/-- 95_test_vectors.md, 8.1: the words no row matches. -/
theorem test_illegal_words : ([0x00000000, 0xFF000000, 0x22000001, 0x20030000, 0x21020000, 0x27020000, 0x51300111,
    0x41000000, 0x41030000, 0x44000000, 0x01020000, 0x10010000, 0x53020000] : List Word).all
      (fun w => (decode w).toOption == none) = true := by decide

theorem test_table_word : decodeTableWord 32 0x51300011 = some (.regwr 0x30 0x11) := by decide

theorem test_fetch_word : stepEmits ((s0 [true] [] []).withFetchWord 32 0x51300011) [.busWrite 0x30 [0x11] true]
    (fun t => t.opf == 0x11 && t.status == 0) = true := by decide

/-! ### The assembly syntax (R81, R82) -/

theorem test_asm_core : assembleText "DEC.10 0xC0, 0x5B".toList = some 0x0201C05B := by decide
theorem test_asm_negative : assembleText "SETTL -180".toList = some 0x3200FF4C := by decide
theorem test_asm_pseudo : assembleText "SETMODE FuseRomAccess".toList = some 0x20020000 := by decide
theorem test_asm_digit_spelling : assembleText "SETDBG 0x1".toList = some 0x27010000 := by decide
theorem test_asm_out_of_range : assembleText "SETDLY 65536".toList = none := by decide

/-! ### Codec (95_test_vectors.md, 2) -/

theorem test_enc8_clamps : gives (.enc8 200) (s0 [] [] []) 0 0x7F = true := by decide
theorem test_enc8_lowest : gives (.enc8 0xFF7F) (s0 [] [] []) 0 0x80 = true := by decide
theorem test_enc10_negative : gives (.enc10 0xFF5B) (s0 [] [] []) 0 0xC05B = true := by decide
theorem test_enc10_clamps : gives (.enc10 512) (s0 [] [] []) 0 0x40FF = true := by decide
theorem test_dec8_ignores_high : gives (.dec8 0xFF 0x7F) (s0 [] [] []) 0 127 = true := by decide
theorem test_dec8_sign : gives (.dec8 0x00 0x80) (s0 [] [] []) 0 0xFFFFFF80 = true := by decide
theorem test_dec10_ignores_low_bits : gives (.dec10 0x3F 0x00) (s0 [] [] []) 0 0 = true := by decide
theorem test_dec10_bit8 : gives (.dec10 0x7F 0x80) (s0 [] [] []) 0 384 = true := by decide

/-! ### Classifier (95_test_vectors.md, 3 and 8.2) -/

theorem test_cls_upper : gives (.cls 150) { wide (s0 [] [] []) with pol := 1 } 0 2 = true := by decide
theorem test_cls_crossed : gives (.cls 20) { s0 [] [] [] with th := 0, tl := 10 } 0 0 = true := by decide
theorem test_updthr_within : emits .updthr { wide (s0 (List.replicate 5 true) [] []) with opf := 0x10 } 0
    (five 0x00 0x87 0xC0 0x5B) = true := by decide
theorem test_updthr_third_nack : emits .updthr { wide (s0 [true, true, false] [] []) with opf := 0x10 } 1
    [.busWrite 0x21 [0x00] true, .busWrite 0x22 [0x87] true, .busWrite 0x23 [0xC0] false] = true := by decide
theorem test_getzone_reset : gives .getzone (s0 [] [] []) 0 1 = true := by decide
theorem test_getzone_c : gives .getzone { s0 [] [] [] with lastZone := .c } 0 2 = true := by decide
theorem test_setth : nextIs (exec (.setth 0x8000) (s0 [] [] [])) (fun t => t.th == 0x8000 && t.tl == -100) = true := by decide
theorem test_getth_signed : gives .getth { s0 [] [] [] with th := 0x8000 } 0 0xFFFF8000 = true := by decide
theorem test_settl : nextIs (exec (.settl 0x7FFF) (s0 [] [] [])) (fun t => t.tl == 0x7FFF && t.th == 100) = true := by decide
theorem test_gettl_signed : gives .gettl { s0 [] [] [] with tl := 0x7FFF } 0 0x7FFF = true := by decide
theorem test_setpol : nextIs (exec (.setpol 0) (s0 [] [] [])) (fun t => t.pol == 0 && t.status == 0) = true := by decide
theorem test_getpol_reset : gives .getpol (s0 [] [] []) 0 0xFFFFFFFF = true := by decide

/-! ### Modes and lifecycle (95_test_vectors.md, 4) -/

theorem test_modePd_releases : emits .modePd (interrupt [true] []) 0
    [.irqRelease (some 1), .busWrite 0x30 [0x10] true] = true := by decide
theorem test_modePd_keeps_fuse : nextIs (exec .modePd { s0 [true] [] [] with opf := 0x13 }) (fun t => t.opf == 0x12) = true := by
  decide
theorem test_modeMeas_grants : emits .modeMeas { s0 [true] [] [some 1] with opf := 0x10, intsrs := 0x80 } 0
    [.busWrite 0x30 [0x11] true, .irqRequest 0 ⟨true, true, true⟩ (some 1)] = true := by decide
theorem test_modeMeas_refused : nextIs (exec .modeMeas { s0 [true] [] [none] with opf := 0x10, intsrs := 0x80 })
    (fun t => t.status == 3 && t.opf == 0x11 && !t.irqAttached) = true := by decide
theorem test_modeFuse : emits .modeFuse { s0 [true] [] [] with opf := 0x10 } 0 [.busWrite 0x30 [0x13] true] = true := by decide
theorem test_setdetPoll : emits .setdetPoll (s0 [true] [] []) 0 [.busWrite 0x20 [0x00] true] = true := by decide
theorem test_setdetInt_c : emits .setdetInt
    { wide (s0 (List.replicate 7 true) [] []) with opf := 0x11, lastZone := .c } 0
    ([.busWrite 0x20 [0x40] true] ++ five 0x00 0xA5 0xC0 0x3D ++ [.busWrite 0x20 [0xC0] true]) = true := by decide
theorem test_enable_polling : emits .enable { wide (s0 [true, true] [] []) with opf := 0x10, pol := 1 } 0
    [.busWrite 0x20 [0x00] true, .busWrite 0x30 [0x11] true, .schedule 200] = true := by decide
theorem test_enable_interrupt : emits .enable { wide (s0 (List.replicate 13 true) [0x01, 0x00, 0x00] [some 1]) with
      opf := 0x10, pol := 1, intsrs := 0x80 } 0
    (five 0x00 0x87 0xC0 0x5B ++ [.busWrite 0x20 [0x80] true, .busWrite 0x30 [0x11] true,
      .irqRequest 0 ⟨true, true, true⟩ (some 1), .wait 10, .busRead 0x10 3 (some [0x01, 0x00, 0x00]), .publish 1] ++
      five 0x00 0x87 0xC0 0x5B) = true := by decide
theorem test_disable_interrupt : emits .disable (interrupt [true] []) 0
    [.cancelAndWait, .irqRelease (some 1), .busWrite 0x30 [0x10] true] = true := by decide
theorem test_disable_nack : nextIs (exec .disable (polling [false] []))
    (fun t => t.status == 1 && t.enabled && !t.pending && t.opf == 0x11) = true := by decide
theorem test_setdly_floor : nextIs (exec (.setdly 0) (s0 [] [] [])) (fun t => t.delay == 10 && !t.pending) = true := by decide
theorem test_setdly_reschedules : emits (.setdly 9) (polling [] []) 0 [.cancelAndWait, .schedule 10] = true := by decide
theorem test_geten : gives .geten (polling [] []) 0 1 = true := by decide
theorem test_getdly_reset : gives .getdly (s0 [] [] []) 0 200 = true := by decide
theorem test_setdbg : nextIs (exec (.setdbg true) (s0 [] [] [])) (fun t => t.debug) = true := by decide
theorem test_getdbg : gives .getdbg { s0 [] [] [] with debug := true } 0 1 = true := by decide

/-! ### Calibration (95_test_vectors.md, 6) -/

theorem test_cal_on_disabled : nextIs (exec .cal { s0 (List.replicate 16 true) (fives 10) [] with opf := 0x10 })
    (fun t => t.status == 0 && t.result == 5 && t.calRef == 5 && t.opf == 0x10 &&
      writtenAddresses t.trace == [0x20, 0x30, 0x30, 0x20, 0x30, 0x30]) = true := by decide
theorem test_cal_third_sample : nextIs (exec .cal { s0 (List.replicate 9 true) (fives 2 ++ [0x00, 0x00, 0x05]) [] with
      opf := 0x10, calRef := 0xFF56 })
    (fun t => t.status == 5 && t.result == 0 && t.calRef == 0xFF56 && t.opf == 0x10) = true := by decide
theorem test_calpass1 : nextIs (exec .calpass1 { s0 (List.replicate 16 true) (fives 10) [] with opf := 0x10 })
    (fun t => t.calHighDone && !t.calLowDone && t.result == 5) = true := by decide
theorem test_calpass1_restore_nack : nextIs (exec .calpass1
      { s0 (List.replicate 13 true ++ [false, true, true]) (fives 10) [] with opf := 0x10 })
    (fun t => t.status == 5 && t.calRef == 5 && !t.calHighDone &&
      writtenAddresses t.trace == [0x20, 0x30, 0x30, 0x20, 0x30, 0x30]) = true := by decide
theorem test_calpass2_mean : nextIs (exec .calpass2 { s0 (List.replicate 16 true)
      (List.replicate 10 [0x01, 0xC0, 0x56]).flatten [] with opf := 0x10 })
    (fun t => t.calLowDone && !t.calHighDone && t.result == 0xFFFFFF56) = true := by decide
theorem test_calpass2_enabled : nextIs (exec .calpass2 (interrupt (List.replicate 15 true) (fives 10)))
    (fun t => t.irqHandle == some 2 && t.intsrs == 0x80 && t.opf == 0x11 && t.pending) = true := by decide
theorem test_mean_truncates : meanOf [-10, -10, -10, -10, -10, -10, -10, -10, -10, -15] 10 = -10 := by decide
theorem test_getref : gives .getref { s0 [] [] [] with calRef := 0xFF56 } 0 0xFFFFFF56 = true := by decide
theorem test_getcalst : gives .getcalst { s0 [] [] [] with calLowDone := true } 0 2 = true := by decide
theorem test_calapply1_negative : nextIs (exec .calapply1 { s0 [] [] [] with calRef := 0xFF56 })
    (fun t => t.tl == -158 && t.th == 100) = true := by decide
theorem test_calapply1_positive : nextIs (exec .calapply1 { s0 [] [] [] with calRef := 140, pol := 1 })
    (fun t => t.th == 128 && t.tl == -100) = true := by decide
theorem test_calapply2_negative : nextIs (exec .calapply2 { s0 [] [] [] with calRef := 140 })
    (fun t => t.th == 128 && t.tl == -100) = true := by decide
theorem test_calapply2_positive : nextIs (exec .calapply2 { s0 [] [] [] with calRef := 0xFF56, pol := 1 })
    (fun t => t.tl == -158 && t.th == 100) = true := by decide

/-! ### Transport passthrough (95_test_vectors.md, 7) -/

theorem test_regrd : nextIs (exec (.regrd 0x30) (s0 [true] [0x11] [])) (fun t => t.result == 0x11 && t.opf == 0x00) = true := by
  decide
theorem test_regrd_nack : emits (.regrd 0x30) (s0 [false] [] []) 1 [.busRead 0x30 1 none] = true := by decide
theorem test_regwr_intsrs : nextIs (exec (.regwr 0x20 0x80) (s0 [true] [] []))
    (fun t => t.intsrs == 0x80 && t.opf == 0x00 && t.status == 0) = true := by decide
theorem test_regwr_soft_reset : emits (.regwr 0x3F 0x01) (s0 [true] [] []) 0
    [.busWrite 0x3F [0x01] true, .wait 20] = true := by decide
theorem test_chkid_match : gives .chkid (s0 [true] [0x5A] []) 0 1 = true := by decide
theorem test_chkid_mismatch : gives .chkid (s0 [true] [0x5B] []) 0 0 = true := by decide
theorem test_getshadowOpf : gives .getshadowOpf { s0 [] [] [] with opf := 0x11 } 0 0x11 = true := by decide
theorem test_getshadowIntsrs : gives .getshadowIntsrs { s0 [] [] [] with intsrs := 0x80 } 0 0x80 = true := by decide

/-! ### Events (95_test_vectors.md, 5 and 8.3) -/

theorem test_worker_polling : stepEmits (offered (polling [true] [0x01, 0x00, 0x96]) [.workerRun])
    [.busRead 0x10 3 (some [0x01, 0x00, 0x96]), .publish 2, .schedule 200]
    (fun t => t.lastZone == .c && t.pending) = true := by decide
theorem test_worker_interrupt : stepEmits (offered (interrupt (List.replicate 7 true) [0x01, 0x00, 0xA0]) [.workerRun])
    ([.busRead 0x10 3 (some [0x01, 0x00, 0xA0]), .publish 2, .busWrite 0x20 [0xC0] true] ++ five 0x00 0xA5 0xC0 0x3D)
    (fun t => t.intsrs == 0xC0 && !t.pending) = true := by decide
theorem test_edge_lost : stepEmits (offered (s0 [] [] []) [.irqEdge]) [] (fun t => !t.pending) = true := by decide
theorem test_detach : stepEmits (offered (interrupt [] []) [.detach]) [.cancelAndWait, .irqRelease (some 1)]
    (fun t => !t.alive && !t.pending && !t.irqAttached && t.irqHandle == none) = true := by decide
theorem test_init_succeeds : stepEmits { offered (polling [true, true, true] [0x5A]) [.init] with alive := false }
    [.busWrite 0x3F [0x01] true, .wait 20, .busRead 0x00 1 (some [0x5A]), .busWrite 0x30 [0x00] true]
    (fun t => { t with env := State.reset.env, trace := [] } == State.reset) = true := by decide
theorem test_init_mismatch : stepEmits { offered (s0 [true, true] [0x5B] []) [.init] with alive := false }
    [.busWrite 0x3F [0x01] true, .wait 20, .busRead 0x00 1 (some [0x5B])] (fun t => !t.alive) = true := by decide

/-! ### Witnesses: concrete states and operands that meet the hypotheses of each statement -/

theorem witness_DecodeAndEncodeAgree : decode 0x51300011 = .ok (.regwr 0x30 0x11) := rfl

theorem witness_DecodeAcceptsExactlyTheMap :
    (∃ r ∈ opcodeMap, r.hits 0x27010000 = true) ∧ (∀ r ∈ opcodeMap, r.hits 0x27020000 = false) ∧
    decode 0x27010000 = .ok (.setdbg true) := ⟨⟨⟨0x27000000, 0xFFFEFFFF⟩, by decide⟩, by decide, rfl⟩

theorem witness_OpcodeRowsNeverOverlap : ∃ r, opcodeMap[0]? = some r ∧ r.hits 0x0100FFFF = true := ⟨_, rfl, by decide⟩

/-- An illegal word is presented to an enabled block. -/
theorem witness_IllegalWordIsReported :
    let s := offered (polling [] []) [.command 0x22000001]
    s.alive = true ∧ s.env.event = .command 0x22000001 ∧ ∀ r ∈ opcodeMap, r.hits 0x22000001 = false := by decide

theorem witness_StepRunsTheDecodedCommand :
    let s := offered (polling [true] []) [.command 0x23000000, .irqEdge]
    s.alive = true ∧ s.env.events = .command 0x23000000 :: [.irqEdge] ∧ s.env.event = .command 0x23000000 ∧
      decode 0x23000000 = .ok .disable := ⟨rfl, rfl, rfl, rfl⟩

/-- The boundaries of each operand range, on both sides, and the other clauses. -/
theorem witness_AssemblerNeverWraps :
    let line (m : String) (ops : List AsmOperand) : Option Instr := assemble ⟨m.toList, ops⟩
    (line "ENC.8" [.number (-32768)] = some (.enc8 0x8000) ∧ line "SETTL" [.number 32767] = some (.settl 0x7FFF) ∧
      line "CLS" [.number (-32769)] = none ∧ line "SETPOL" [.number 32768] = none) ∧
    (line "SETDLY" [.number 65535] = some (.setdly 0xFFFF) ∧ line "SETDLY" [.number 65536] = none ∧
      line "SETDLY" [.number (-1)] = none) ∧
    (line "REGRD" [.number 255] = some (.regrd 0xFF) ∧ line "REGRD" [.number 256] = none) ∧
    (line "DEC.10" [.number 0, .number 255] = some (.dec10 0 0xFF) ∧ line "DEC.8" [.number 256, .number 0] = none ∧
      line "REGWR" [.number 0, .number (-1)] = none ∧ line "REGWR" [.number 0] = none) ∧
    (line "SETDBG" [.number 1] = some (.setdbg true) ∧ line "SETDBG" [.number 2] = none) ∧
    (line "ENABLE" [] = some .enable ∧ line "ENABLE" [.number 0] = none) ∧
    (line "SETEN" [.number 0] = some .disable ∧ line "CALPASS" [.number 2] = some .calpass2 ∧
      line "CALPASS" [.number 3] = none) ∧
    (line "SETMODE" [.name "PowerDown".toList] = some .modePd ∧ line "SETDET" [.name "PowerDown".toList] = none) ∧
    line "NOP" [] = none := by decide

/-- The ends of the two ranges, and pairs on each side of the last two clauses. -/
theorem witness_CodecRoundTrip :
    (-128 ≤ (-128 : Int) ∧ (-128 : Int) ≤ 127) ∧ (-512 ≤ (511 : Int) ∧ (511 : Int) ≤ 511) ∧
    decode8 (encode8 (-128)).1 (encode8 (-128)).2 = -128 ∧ decode10 (encode10 511).1 (encode10 511).2 = 511 ∧
    encode8 (decode8 0 0x80) = (0, 0x80) ∧ encode8 (decode8 1 0x80) ≠ (1, 0x80) ∧
    encode10 (decode10 0xC0 0x5B) = (0xC0, 0x5B) ∧ encode10 (decode10 0xC1 0x5B) ≠ (0xC1, 0x5B) := by decide

/-- Thresholds that meet, the narrowest gap, and two polarities of one sign. -/
theorem witness_ZoneBNeedsAGapBetweenThresholds :
    (5 : Half).toInt ≤ (5 : Half).toInt ∧ (5 : Half).toInt + 1 < (7 : Half).toInt ∧
    (0 < (3 : Half).toInt ↔ 0 < (1 : Half).toInt) := by decide

theorem witness_ThresholdUpdateWrites :
    (s0 [] [] []).cfg.wf = true ∧ (s0 (List.replicate 5 true) [] []).env.acks = List.replicate 5 true ++ [] ∧
    (s0 [false] [] []).env.acks = List.replicate 0 true ++ false :: [] ∧
    (s0 [true, true, true, true, false, true] [] []).env.acks = List.replicate 4 true ++ false :: [true] := by decide

theorem witness_ReadRegisterCommand :
    1 ≤ (s0 [true] [0x11] []).cfg.maxXfer ∧ (s0 [true] [0x11] []).env.ack = true ∧ (s0 [false] [] []).env.ack = false := by
  decide

theorem witness_WriteRegisterCommand :
    1 ≤ (s0 [true] [] []).cfg.maxXfer ∧ (s0 [true] [] []).env.ack = true ∧ (s0 [false] [] []).env.ack = false := by decide

theorem witness_CheckIdentityCommand :
    1 ≤ (s0 [true] [0x5A] []).cfg.maxXfer ∧ (s0 [true] [0x5A] []).env.ack = true ∧ (s0 [false] [] []).env.ack = false := by
  decide

theorem witness_PowerDownCommand :
    (interrupt [true] []).cfg.wf = true ∧ (interrupt [true] []).irqAttached = true ∧
    (interrupt [true] []).env.ack = true ∧ (interrupt [false] []).env.ack = false := by decide

/-- The four cases: no acknowledgement, no request, a granted request, a refused one. -/
theorem witness_MeasurementCommand :
    let asking (g : Option Handle) : State := { s0 [true] [] [g] with intsrs := 0x80 }
    (s0 [false] [] []).cfg.wf = true ∧ (s0 [false] [] []).env.ack = false ∧
    ((s0 [true] [] []).env.ack = true ∧ det (s0 [true] [] []).cfg (s0 [true] [] []).intsrs ≠ .interrupt) ∧
    ((asking (some 1)).env.ack = true ∧ det (asking (some 1)).cfg (asking (some 1)).intsrs = .interrupt ∧
      (asking (some 1)).irqAttached = false ∧ (asking (some 1)).env.popAck.grant = some 1) ∧
    ((asking none).env.ack = true ∧ det (asking none).cfg (asking none).intsrs = .interrupt ∧
      (asking none).irqAttached = false ∧ (asking none).env.popAck.grant = none) := by decide

theorem witness_FuseRomCommand :
    (polling [true] []).cfg.wf = true ∧ (polling [true] []).env.ack = true ∧ (polling [false] []).env.ack = false := by decide

theorem witness_PollingDetectionCommand :
    (interrupt [true] []).cfg.wf = true ∧ (interrupt [true] []).env.ack = true ∧ (interrupt [false] []).env.ack = false := by
  decide

/-- Seven writes when the type changes: all acknowledged, the first refused, the last refused. -/
theorem witness_InterruptDetectionCommand :
    let s (acks : List Bool) : State := { wide (s0 acks [] []) with lastZone := .c }
    let ws := reprogramWrites (s []) .c ++ [((s []).cfg.addrIntsrs, intsrsFor (s []) .c ||| (s []).cfg.intsrsDet)]
    (s []).cfg.wf = true ∧ ws.length = 7 ∧ (s (List.replicate 7 true)).env.acks = List.replicate ws.length true ++ [] ∧
    (s [false]).env.acks = List.replicate 0 true ++ false :: [] ∧
    (s (List.replicate 6 true ++ [false])).env.acks = List.replicate 6 true ++ false :: [] := by decide

theorem witness_EnableAndDisableAreIdempotent : (polling [] []).enabled = true ∧ (s0 [] [] []).enabled = false := by decide

theorem witness_EnableStartsPolling :
    let s := s0 [true, true] [] []
    s.cfg.wf = true ∧ s.enabled = false ∧ det s.cfg s.intsrs = .polling ∧ s.env.acks = true :: true :: [] := by decide

/-- With no line attached, and with one: 160 is in zone C, so six writes follow the read. -/
theorem witness_EnableForcesOnePass :
    ∀ attached ∈ [false, true],
      let s : State := { wide (s0 (List.replicate 14 true) [0x01, 0x00, 0xA0] [some 7]) with
        opf := 0x10, intsrs := 0x80, pol := 1, irqAttached := attached, irqHandle := if attached then some 1 else none }
      let s1 := beforeForcedPass s 7
      let ws := reprogramWrites s1 (s.classify (sampleValue s.cfg (resolution s.cfg s.opf) [0x01, 0x00, 0xA0]))
      s.cfg.wf = true ∧ s.enabled = false ∧ det s.cfg s.intsrs = .interrupt ∧ freshSample s.cfg [0x01, 0x00, 0xA0] = true ∧
      ws.length = 6 ∧ s.env.acks = List.replicate ((detectionWrites s).length + 2 + ws.length) true ++ [] ∧
      s.env.bytes = [0x01, 0x00, 0xA0] ++ [] ∧ (s.irqAttached = false → s.env.grants = some 7 :: []) := by decide

/-- The read refused, a stale sample, and the first and the last reprogramming write refused. -/
theorem witness_EnableSurvivesAFailedPass :
    let s (acks : List Bool) (bytes : List Byte) : State :=
      { wide (s0 acks bytes [some 7]) with opf := 0x10, intsrs := 0x80, pol := 1 }
    let fresh : List Byte := [0x01, 0x00, 0xA0]
    let z := (s [] []).classify (sampleValue (s [] []).cfg (resolution (s [] []).cfg (s [] []).opf) fresh)
    let n := (detectionWrites (s [] [])).length + 1
    ((s [] []).cfg.wf = true ∧ (s [] []).enabled = false ∧ det (s [] []).cfg (s [] []).intsrs = .interrupt ∧ n = 7 ∧
      (s [] []).env.grants = some 7 :: [] ∧ (reprogramWrites (beforeForcedPass (s [] []) 7) z).length = 6) ∧
    (s (List.replicate 7 true ++ [false]) []).env.acks = List.replicate n true ++ false :: [] ∧
    ((s (List.replicate 8 true) [0x00, 0x00, 0xA0]).env.acks = List.replicate n true ++ true :: [] ∧
      freshSample (s [] []).cfg [0x00, 0x00, 0xA0] = false) ∧
    ∀ k ∈ [0, 5], freshSample (s [] []).cfg fresh = true ∧
      (s (List.replicate (8 + k) true ++ [false]) fresh).env.acks = List.replicate (n + 1 + k) true ++ false :: [] := by
  decide

/-- The first and the last detection write refused, the OPF write refused, the line refused, and an ENABLE that
succeeds. -/
theorem witness_FailedEnableLeavesBlockDisabled :
    let s (acks : List Bool) : State := { s0 acks [] [none] with intsrs := 0x80 }
    ((s []).cfg.wf = true ∧ (s []).enabled = false ∧ (detectionWrites (s [])).length = 6 ∧
      det (s []).cfg (s []).intsrs = .interrupt ∧ (s []).irqAttached = false ∧ (s []).env.grants = none :: []) ∧
    (s [false]).env.acks = List.replicate 0 true ++ false :: [] ∧
    (s (List.replicate 5 true ++ [false])).env.acks = List.replicate 5 true ++ false :: [] ∧
    (s (List.replicate 6 true ++ [false])).env.acks = List.replicate 6 true ++ false :: [] ∧
    (s (List.replicate 7 true)).env.acks = List.replicate (6 + 1) true ++ [] ∧
    (∃ t, exec .enable (s0 [true, false] [] []) = .next t ∧ t.status = 1) ∧
    ∃ t, exec .enable (s0 [true, true] [] []) = .next t ∧ t.status = 0 :=
  ⟨by decide, by decide, by decide, by decide, by decide, ⟨_, rfl, by decide⟩, _, rfl, by decide⟩

theorem witness_DisableCommand :
    (interrupt [true] []).cfg.wf = true ∧ (interrupt [true] []).enabled = true ∧ (interrupt [true] []).env.ack = true ∧
    (interrupt [false] []).env.ack = false := by decide

/-- A DISABLE with a run owed, then an edge and a worker start. -/
theorem witness_NothingHappensAfterDisable :
    let s := offered (interrupt [true] []) [.irqEdge, .workerRun, .command 0x12000000]
    s.alive = true ∧ s.enabled = true ∧ ∃ t, exec .disable s = .next t ∧ t.status = 0 ∧
      t.env.events = [.irqEdge, .workerRun] ++ [.command 0x12000000] ∧
      ∀ e ∈ [Event.irqEdge, Event.workerRun], e = .workerRun ∨ e = .irqEdge :=
  ⟨rfl, rfl, _, rfl, by decide, by decide, by decide⟩

/-- Both branches, at the floor. -/
theorem witness_SetDelayCommand :
    ((polling [] []).enabled = true ∧ det (polling [] []).cfg (polling [] []).intsrs = .polling) ∧
    det (interrupt [] []).cfg (interrupt [] []).intsrs ≠ .polling ∧ clampDelay (s0 [] [] []).cfg 9 = 10 ∧
    clampDelay (s0 [] [] []).cfg 10 = 10 := by decide

/-- Ten samples of 5 on an enabled interrupt-mode block with the line attached, and on a disabled block with none. -/
theorem witness_CalibrationLearnsTheMean :
    let samples : List (List Byte) := List.replicate 10 [0x01, 0x00, 0x05]
    ∀ s ∈ [interrupt (List.replicate 15 true) (fives 10), s0 (List.replicate 16 true) (fives 10) []],
      s.cfg.wf = true ∧ samples.length = s.cfg.calN ∧ (∀ b ∈ samples, freshSample s.cfg b = true) ∧
      s.env.acks = List.replicate (s.cfg.calN + if s.enabled then 5 else 6) true ++ [] ∧
      s.env.bytes = samples.flatten ++ [] ∧ (s.irqAttached = true → s.env.grants = some 2 :: []) := by decide

/-- The first sample stale, and the last one, with the line then refused. -/
theorem witness_CalibrationStopsAtFirstStaleSample :
    let r : RestoreAnswers := ⟨true, none, true, true⟩
    (∀ n ∈ [0, 9],
      let s : State := { interrupt (List.replicate (n + 6) true) (fives n ++ [0x00, 0x00, 0x05]) with
        env.grants := [none] }
      let samples : List (List Byte) := List.replicate n [0x01, 0x00, 0x05]
      s.cfg.wf = true ∧ samples.length < s.cfg.calN ∧ (∀ b ∈ samples, freshSample s.cfg b = true) ∧
      s.env.acks = List.replicate (samples.length + 4) true ++ r.acks s ++ [] ∧
      s.env.bytes = samples.flatten ++ [0x00, 0x00, 0x05] ++ [] ∧ s.irqAttached = true ∧
      s.env.grants = r.grant :: []) ∧
    freshSample Config.refcfg [0x00, 0x00, 0x05] = false ∧ ([0x00, 0x00, 0x05] : List Byte).length = Config.refcfg.sampleLen := by
  decide

/-- The first and the last of the three writes refused, and the first and the last sample read. -/
theorem witness_CalibrationStopsAtRefusedTransaction :
    let r : RestoreAnswers := ⟨true, some 2, true, false⟩
    (∀ k ∈ [0, 2],
      let s := interrupt (List.replicate k true ++ [false, true, true]) []
      s.cfg.wf = true ∧ s.env.grants = r.grant :: [] ∧
      s.env.acks = List.replicate k true ++ false :: (r.acks s ++ [])) ∧
    ∀ n ∈ [0, 9],
      let s := s0 (List.replicate (n + 3) true ++ [false, true, true, false]) (fives n) []
      let samples : List (List Byte) := List.replicate n [0x01, 0x00, 0x05]
      s.cfg.wf = true ∧ s.irqAttached = false ∧ samples.length < s.cfg.calN ∧
      (∀ b ∈ samples, freshSample s.cfg b = true) ∧
      s.env.acks = List.replicate (samples.length + 3) true ++ false :: (r.acks s ++ []) ∧
      s.env.bytes = samples.flatten ++ [] := by decide

/-- K4: the restore's first write refused on a disabled block; and the line refused on an enabled one. -/
theorem witness_CalibrationRestoreIsBestEffort :
    let samples : List (List Byte) := List.replicate 10 [0x01, 0x00, 0x05]
    let k4 := s0 (List.replicate 13 true ++ [false, true, true]) (fives 10) []
    let refused : State := { interrupt (List.replicate 15 true) (fives 10) with env.grants := [none] }
    let r4 : RestoreAnswers := ⟨false, none, true, true⟩
    let rr : RestoreAnswers := ⟨true, none, true, true⟩
    (k4.cfg.wf = true ∧ r4.allGood k4 = false ∧ samples.length = k4.cfg.calN ∧
      (∀ b ∈ samples, freshSample k4.cfg b = true) ∧ k4.irqAttached = false ∧
      k4.env.acks = List.replicate (k4.cfg.calN + 3) true ++ r4.acks k4 ++ [] ∧ k4.env.bytes = samples.flatten ++ []) ∧
    (refused.cfg.wf = true ∧ rr.allGood refused = false ∧ refused.irqAttached = true ∧
      refused.env.grants = rr.grant :: [] ∧ refused.env.bytes = samples.flatten ++ [] ∧
      refused.env.acks = List.replicate (refused.cfg.calN + 3) true ++ rr.acks refused ++ []) := by decide

theorem witness_CalibrationFrame : Instr.calpass2 = .cal ∨ Instr.calpass2 = .calpass1 ∨ Instr.calpass2 = .calpass2 := by decide

/-- The references at which the two sums are the ends of s16, and both signs of the polarity. -/
theorem witness_ThresholdFromReference :
    (-32756 : Half).toInt - Config.refcfg.calTol = -32768 ∧ (32755 : Half).toInt + Config.refcfg.calTol = 32767 ∧
    0 < (1 : Half).toInt ∧ ¬0 < (0 : Half).toInt := by decide

theorem witness_WorkerRunInPollingMode :
    let s := offered (polling [true] [0x01, 0x00, 0x96]) [.workerRun]
    s.cfg.wf = true ∧ s.alive = true ∧ s.pending = true ∧ det s.cfg s.intsrs = .polling ∧
    s.env.events = .workerRun :: [] ∧ s.env.acks = true :: [] ∧ s.env.bytes = [0x01, 0x00, 0x96] ++ [] ∧
    freshSample s.cfg [0x01, 0x00, 0x96] = true := by decide

/-- 160 is in zone C: the type changes, and six writes follow the read, all acknowledged, or the first or the last of
them refused. -/
theorem witness_WorkerRunInInterruptMode :
    let s (acks : List Bool) := offered (interrupt acks [0x01, 0x00, 0xA0]) [.workerRun]
    let ws := reprogramWrites (s [])
      ((s []).classify (sampleValue (s []).cfg (resolution (s []).cfg (s []).opf) [0x01, 0x00, 0xA0]))
    ((s []).cfg.wf = true ∧ (s []).alive = true ∧ (s []).pending = true ∧ det (s []).cfg (s []).intsrs = .interrupt ∧
      freshSample (s []).cfg [0x01, 0x00, 0xA0] = true ∧ (s []).env.events = .workerRun :: [] ∧ ws.length = 6 ∧
      (s []).env.bytes = [0x01, 0x00, 0xA0] ++ []) ∧
    (s (List.replicate 7 true)).env.acks = List.replicate (1 + ws.length) true ++ [] ∧
    ∀ k ∈ [0, 5], (s (List.replicate (1 + k) true ++ [false])).env.acks = List.replicate (1 + k) true ++ false :: [] := by
  decide

theorem witness_FailedReadIsLoggedAndSkipped :
    let nack := offered (polling [false] []) [.workerRun]
    let stale := offered (polling [true] [0x00, 0x00, 0x00]) [.workerRun]
    (nack.cfg.wf = true ∧ nack.alive = true ∧ nack.pending = true ∧ nack.env.events = .workerRun :: [] ∧
      nack.env.acks = false :: []) ∧
    (stale.cfg.wf = true ∧ stale.alive = true ∧ stale.pending = true ∧ stale.env.events = .workerRun :: [] ∧
      stale.env.acks = true :: [] ∧ stale.env.bytes = [0x00, 0x00, 0x00] ++ [] ∧
      ([0x00, 0x00, 0x00] : List Byte).length = stale.cfg.sampleLen ∧ freshSample stale.cfg [0x00, 0x00, 0x00] = false) := by
  decide

theorem witness_EdgeOnlyArmsTheWorker :
    let on := offered (interrupt [] []) [.irqEdge]
    let off := offered (polling [] []) [.irqEdge]
    (on.alive = true ∧ on.env.event = .irqEdge ∧ on.irqAttached = true) ∧
    (off.alive = true ∧ off.env.event = .irqEdge ∧ off.irqAttached = false) := by decide

theorem witness_InitGivesResetValues :
    let s : State := { offered (interrupt [true, true, true] [0x5A]) [.init] with alive := false }
    s.cfg.wf = true ∧ s.alive = false ∧ s.env.events = .init :: [] ∧ s.env.acks = true :: true :: true :: [] ∧
    s.env.bytes = s.cfg.idValue :: [] := by decide

/-- The four causes of a failed INIT, and one that ends with the mismatch. -/
theorem witness_FailedInitLeavesBlockDead :
    let s (acks : List Bool) (bytes : List Byte) : State :=
      { offered (interrupt acks bytes) [.init, .irqEdge] with alive := false }
    ((s [] []).cfg.wf = true ∧ (s [] []).alive = false ∧ (s [] []).env.event = .init ∧
      (s [] []).env.events = .init :: [.irqEdge]) ∧
    (s [false] []).env.acks = false :: [] ∧ (s [true, false] []).env.acks = true :: false :: [] ∧
    ((s [true, true] [0x5B]).env.acks = true :: true :: [] ∧ (s [true, true] [0x5B]).env.bytes = 0x5B :: [] ∧
      0x5B ≠ (s [] []).cfg.idValue) ∧
    ((s [true, true, false] [0x5A]).env.acks = true :: true :: false :: [] ∧
      (s [true, true, false] [0x5A]).env.bytes = (s [] []).cfg.idValue :: []) ∧
    ∃ t, step (s [true, true] [0x5B]) = .next t ∧ t.alive = false ∧ t.status = 2 :=
  ⟨by decide, by decide, by decide, by decide, by decide, _, rfl, by decide, by decide⟩

/-- Two attached blocks that differ in what they hold, the calibration included. -/
theorem witness_DetachReleasesEverything :
    let s := offered (interrupt [] []) [.detach]
    let t : State := { s with calRef := 140, calHighDone := true, opf := 0x13, enabled := false, debug := true }
    s.alive = true ∧ t.alive = true ∧ s.env.event = .detach ∧ t.env = s.env ∧ t.cfg = s.cfg ∧ t.trace = s.trace ∧
    t.irqAttached = s.irqAttached ∧ s.irqAttached = true ∧ t.irqHandle = s.irqHandle ∧ t ≠ s := by decide

theorem witness_DeadBlockTakesOnlyInit :
    ∀ e ∈ [Event.command 0x22000000, .workerRun, .irqEdge, .detach],
      let s : State := { offered (s0 [] [] []) [e] with alive := false }
      s.alive = false ∧ s.env.event = e := by decide

/-- A legal state other than the reset state, from which a step goes on. -/
theorem witness_StepKeepsLegalStates :
    let s := offered (interrupt (List.replicate 7 true) [0x01, 0x00, 0xA0]) [.workerRun]
    Inv s ∧ ∃ t, step s = .next t ∧ t.lastZone = .c :=
  ⟨⟨by decide, by decide, by decide, by decide, by decide, by decide, by decide⟩, _, rfl, by decide⟩

/-- A step that writes both shadowed registers. -/
theorem witness_ShadowsFollowAcknowledgedWrites :
    let s := offered (s0 [true, true] [] []) [.command 0x22000000]
    s.alive = true ∧ s.env.event ≠ .detach ∧
      ∃ t, step s = .next t ∧ t.alive = true ∧ t.opf = 0x01 ∧ writtenAddresses t.trace = [0x20, 0x30] :=
  ⟨rfl, by decide, _, rfl, rfl, by decide, by decide⟩

/-- A calibration that changes the reference and its flag, and an ENABLE that changes the zone, the line and the
shadows. -/
theorem witness_ElementsHaveTheirWriters :
    (s0 [] [] []).cfg.wf = true ∧
    (∃ t, exec .calpass1 (s0 (List.replicate 16 true) (List.replicate 10 [0x01, 0x00, 0x05]).flatten []) = .next t ∧
      t.calRef ≠ State.reset.calRef ∧ t.calHighDone ≠ State.reset.calHighDone) ∧
    ∃ t, exec .enable { s0 (List.replicate 15 true) [0x01, 0x00, 0x7F] [some 7] with intsrs := 0x80 } = .next t ∧
      t.enabled ≠ State.reset.enabled ∧ t.lastZone ≠ State.reset.lastZone ∧ t.irqAttached ≠ State.reset.irqAttached ∧
      t.opf ≠ State.reset.opf ∧ t.intsrs ≠ 0x80 :=
  ⟨by decide, ⟨_, rfl, by decide, by decide⟩, _, rfl, by decide, by decide, by decide, by decide, by decide⟩

/-- Each of the other elements is changed by one of its writers. -/
theorem witness_ElementsHaveTheirWriters_others :
    (∃ t, exec (.setdly 9) (polling [] []) = .next t ∧ t.delay ≠ 200) ∧
    (∃ t, exec (.setdbg true) (s0 [] [] []) = .next t ∧ t.debug ≠ false) ∧
    (∃ t, exec (.setth 150) (s0 [] [] []) = .next t ∧ t.th ≠ 100) ∧
    (∃ t, exec .calapply1 (s0 [] [] []) = .next t ∧ t.tl ≠ -100) ∧
    (∃ t, exec (.setpol 1) (s0 [] [] []) = .next t ∧ t.pol ≠ -1) ∧
    (∃ t, exec .calpass2 (s0 (List.replicate 16 true) (List.replicate 10 [0x01, 0x00, 0x05]).flatten []) = .next t ∧
      t.calLowDone ≠ false) ∧
    ∃ t, exec .disable (interrupt [true] []) = .next t ∧ t.irqHandle ≠ some 1 ∧ t.pending ≠ true :=
  ⟨⟨_, rfl, by decide⟩, ⟨_, rfl, by decide⟩, ⟨_, rfl, by decide⟩, ⟨_, rfl, by decide⟩, ⟨_, rfl, by decide⟩,
    ⟨_, rfl, by decide⟩, _, rfl, by decide, by decide⟩

/-- A command, a DETACH, an INIT of a block that is not alive, a stuck one and a refused one. -/
theorem witness_DebugFlagHasNoEffect :
    ((∀ v, Instr.cal ≠ .setdbg v) ∧ Instr.cal ≠ .getdbg) ∧
    (decode 0x12000000 ≠ .ok .getdbg ∧ ∀ v, decode 0x12000000 ≠ .ok (.setdbg v)) ∧
    (∃ t, step (offered (polling [] []) [.command 0x12000000]) = .next t ∧ t.alive = true) ∧
    (∃ t, step (offered (polling [] []) [.detach]) = .next t ∧ t.alive = false) ∧
    (∃ s t, s = { offered (s0 [true, true, true] [0x5A] []) [.init] with alive := false, debug := true } ∧
      (∀ w, s.env.event ≠ .command w) ∧ step s = .next t ∧ t.debug = false) ∧
    step { offered (s0 [] [] []) [.irqEdge] with alive := false } = .fault .stuckNotAlive ∧
    step { offered (s0 [] [] []) [.command 0x40000000] with alive := false } = .refused .commandNotTaken :=
  ⟨by decide, ⟨by decide, by decide⟩, ⟨_, rfl, rfl⟩, ⟨_, rfl, rfl⟩, ⟨_, _, rfl, (by intro w h; cases h), rfl, by decide⟩, rfl, rfl⟩

/-- A worker run whose accesses are those of a pass. -/
theorem witness_CommandsStayWithinTheirRegisters :
    let s := offered (interrupt (List.replicate 7 true) [0x01, 0x00, 0xA0]) [.workerRun]
    ∃ t, step s = .next t ∧
      accesses t.trace = [.read 0x10, .write 0x20, .write 0x21, .write 0x22, .write 0x23, .write 0x24, .write 0x25] :=
  ⟨_, rfl, by decide⟩

/-- A worker run that publishes, and an edge. -/
theorem witness_OnlySamplePassesPublish :
    let s := offered (polling [true] [0x01, 0x00, 0x96]) [.workerRun]
    s.alive = true ∧ (∃ t, step s = .next t ∧ published t.trace = [2]) ∧ s.env.event = .workerRun :=
  ⟨rfl, ⟨_, rfl, by decide⟩, rfl⟩

end Sys2Proof.Tests
end

section
/-! SUPPORT. Which errors may end a rule before its end (R16): one lemma per operation, and which errors each
command may report (R241 to R245). -/

namespace Sys2Proof.Machine

/-- Where the piece of a rule raises, it raises an error that `may` allows. -/
def Res.RaisesOnly {α : Type} (may : Err → Prop) (r : Res α) : Prop := ∀ e s, r = .raised e s → may e

variable {α β : Type} {may : Err → Prop}

@[simp] theorem Res.raisesOnly_done (v : α) (s : State) : (Res.done v s).RaisesOnly may := by
  intro e t h
  cases h

@[simp] theorem Res.raisesOnly_raised (e : Err) (s : State) :
    (Res.raised e s : Res α).RaisesOnly may ↔ may e := by
  constructor
  · exact fun h => h e s rfl
  · intro he e' s' h
    cases h
    exact he

theorem Res.RaisesOnly.andThen {r : Res α} {f : α → State → Res β} (h : r.RaisesOnly may)
    (hf : ∀ v t, (f v t).RaisesOnly may) : (r.andThen f).RaisesOnly may := by
  cases r with
  | done v t => exact hf v t
  | raised e t => simpa using h

theorem Res.RaisesOnly.noResult {r : Res Unit} (h : r.RaisesOnly may) : r.noResult.RaisesOnly may :=
  h.andThen fun _ t => raisesOnly_done 0 t

/-! ### The transport and the rules built on it: `TransportError` alone (R241) -/

theorem memRead_raisesOnly (ht : may .transport) (addr : Byte) (n : Nat) (s : State) :
    (memRead addr n s).RaisesOnly may := by
  obtain ⟨-, h⟩ | ⟨b, -, h⟩ | h := memRead_cases addr n s <;> simp [h, ht]

theorem memWrite_raisesOnly (ht : may .transport) (addr : Byte) (payload : List Byte) (s : State) :
    (memWrite addr payload s).RaisesOnly may := by
  obtain ⟨-, h⟩ | ⟨-, h⟩ | ⟨-, h⟩ := memWrite_cases addr payload s <;> simp [h, ht]

theorem memWrites_raisesOnly (ht : may .transport) (ws : List (Byte × Byte)) (s : State) :
    (memWrites ws s).RaisesOnly may := by
  induction ws generalizing s with
  | nil => exact Res.raisesOnly_done () s
  | cons w ws ih => exact (memWrite_raisesOnly ht w.1 [w.2] s).andThen fun _ t => ih t

theorem readByte_raisesOnly (ht : may .transport) (addr : Byte) (s : State) : (readByte addr s).RaisesOnly may :=
  (memRead_raisesOnly ht addr 1 s).andThen fun _ t => Res.raisesOnly_done _ t

theorem writeOpf_raisesOnly (ht : may .transport) (v : Byte) (s : State) : (writeOpf v s).RaisesOnly may :=
  memWrite_raisesOnly ht _ _ s

theorem writeIntsrs_raisesOnly (ht : may .transport) (v : Byte) (s : State) : (writeIntsrs v s).RaisesOnly may :=
  memWrite_raisesOnly ht _ _ s

theorem updateThresholds_raisesOnly (ht : may .transport) (s : State) : (updateThresholds s).RaisesOnly may :=
  memWrites_raisesOnly ht _ s

theorem writeTypeFor_raisesOnly (ht : may .transport) (z : Zone) (s : State) :
    (writeTypeFor z s).RaisesOnly may := by
  unfold writeTypeFor
  split
  · exact Res.raisesOnly_done () s
  · exact writeIntsrs_raisesOnly ht _ s

theorem setModePd_raisesOnly (ht : may .transport) (s : State) : (setModePd s).RaisesOnly may :=
  writeOpf_raisesOnly ht _ _

theorem setModeFuse_raisesOnly (ht : may .transport) (s : State) : (setModeFuse s).RaisesOnly may :=
  writeOpf_raisesOnly ht _ s

theorem setDetPoll_raisesOnly (ht : may .transport) (s : State) : (setDetPoll s).RaisesOnly may :=
  writeIntsrs_raisesOnly ht _ s

theorem setDetInt_raisesOnly (ht : may .transport) (s : State) : (setDetInt s).RaisesOnly may :=
  (writeTypeFor_raisesOnly ht _ s).andThen fun _ t =>
    (updateThresholds_raisesOnly ht t).andThen fun _ u => writeIntsrs_raisesOnly ht _ u

theorem setDetCurrent_raisesOnly (ht : may .transport) (s : State) : (setDetCurrent s).RaisesOnly may := by
  unfold setDetCurrent
  split
  · exact setDetInt_raisesOnly ht s
  · exact setDetPoll_raisesOnly ht s

theorem disableTransition_raisesOnly (ht : may .transport) (s : State) : (disableTransition s).RaisesOnly may :=
  (setModePd_raisesOnly ht _).andThen fun _ _ => Res.raisesOnly_done () _

/-! ### The line: `InterruptAttachError` too (R243) -/

theorem irqAttach_raisesOnly (ha : may .interruptAttach) (s : State) : (irqAttach s).RaisesOnly may := by
  obtain ⟨h, -, e⟩ | ⟨-, e⟩ := irqAttach_cases s <;> simp [e, ha]

theorem setModeMeas_raisesOnly (ht : may .transport) (ha : may .interruptAttach) (s : State) :
    (setModeMeas s).RaisesOnly may := by
  refine (writeOpf_raisesOnly ht _ s).andThen fun _ t => ?_
  split
  · exact irqAttach_raisesOnly ha t
  · exact Res.raisesOnly_done () t

/-- The forced pass logs what it raises, so ENABLE raises only what its two mode steps raise (R150, R190). -/
theorem enableTransition_raisesOnly (ht : may .transport) (ha : may .interruptAttach) (s : State) :
    (enableTransition s).RaisesOnly may :=
  (setDetCurrent_raisesOnly ht s).andThen fun _ t =>
    (setModeMeas_raisesOnly ht ha t).andThen fun _ _ => Res.raisesOnly_done () _

/-! ### Calibration: what its steps raise is caught, and `CalibrationError` alone is reported (R245) -/

theorem calibrationCommand_raisesOnly (hc : may .calibration) (mark : State → State) (s : State) :
    (calibrationCommand mark s).RaisesOnly may := by
  unfold calibrationCommand
  split
  split
  · exact (Res.raisesOnly_raised _ _).mpr hc
  · exact Res.raisesOnly_done _ _

/-! ### The commands -/

/-- Which commands may report an error (R241 to R245). An identity mismatch is INIT's (R242), a sample that is not ready is
logged or becomes a calibration error (R244), and an illegal word is no command (R246). -/
def MayReport (i : Instr) : Err → Prop
  | .transport =>
    i ∈ [.updthr, .modePd, .modeMeas, .modeFuse, .setdetPoll, .setdetInt, .enable, .disable, .chkid] ∨
      (∃ a, i = .regrd a) ∨ ∃ a v, i = .regwr a v
  | .interruptAttach => i = .modeMeas ∨ i = .enable
  | .calibration => i = .cal ∨ i = .calpass1 ∨ i = .calpass2
  | .identityMismatch | .notReady | .illegalCommand => False

/-- Every command runs a rule to its end, and the rule raises only what the command may report. -/
theorem exec_raisesOnly (i : Instr) (s : State) :
    ∃ r, exec i s = commandEnds r ∧ r.RaisesOnly (MayReport i) := by
  cases i with
  | updthr => exact ⟨_, rfl, (updateThresholds_raisesOnly (.inl (by simp)) s).noResult⟩
  | modePd => exact ⟨_, rfl, (setModePd_raisesOnly (.inl (by simp)) s).noResult⟩
  | modeMeas => exact ⟨_, rfl, (setModeMeas_raisesOnly (.inl (by simp)) (.inl rfl) s).noResult⟩
  | modeFuse => exact ⟨_, rfl, (setModeFuse_raisesOnly (.inl (by simp)) s).noResult⟩
  | setdetPoll => exact ⟨_, rfl, (setDetPoll_raisesOnly (.inl (by simp)) s).noResult⟩
  | setdetInt => exact ⟨_, rfl, (setDetInt_raisesOnly (.inl (by simp)) s).noResult⟩
  | enable =>
    refine ⟨_, rfl, ?_⟩
    split
    · exact Res.raisesOnly_done 0 s
    · exact (enableTransition_raisesOnly (.inl (by simp)) (.inr rfl) s).noResult
  | disable =>
    refine ⟨_, rfl, ?_⟩
    split
    · exact (disableTransition_raisesOnly (.inl (by simp)) s).noResult
    · exact Res.raisesOnly_done 0 s
  | cal => exact ⟨_, rfl, calibrationCommand_raisesOnly (.inl rfl) _ s⟩
  | calpass1 => exact ⟨_, rfl, calibrationCommand_raisesOnly (.inr (.inl rfl)) _ s⟩
  | calpass2 => exact ⟨_, rfl, calibrationCommand_raisesOnly (.inr (.inr rfl)) _ s⟩
  | regrd a =>
    exact ⟨_, rfl, (readByte_raisesOnly (.inr (.inl ⟨a, rfl⟩)) a s).andThen fun _ t => Res.raisesOnly_done _ t⟩
  | regwr a v => exact ⟨_, rfl, (memWrite_raisesOnly (.inr (.inr ⟨a, v, rfl⟩)) a [v] s).noResult⟩
  | chkid => exact ⟨_, rfl, (readByte_raisesOnly (.inl (by simp)) _ s).andThen fun _ t => Res.raisesOnly_done _ t⟩
  | _ => exact ⟨_, rfl, Res.raisesOnly_done _ _⟩

/-- A command completes with status 0, or with result 0 and the code of an error that it may report (R16, R17). -/
theorem exec_completes (i : Instr) (s : State) :
    ∃ t, exec i s = .next t ∧ (t.status = 0 ∨ t.result = 0 ∧ ∃ e, MayReport i e ∧ t.status = e.code) := by
  obtain ⟨r, hr, only⟩ := exec_raisesOnly i s
  refine ⟨r.finish, hr, ?_⟩
  obtain ⟨v, t, -, h⟩ | ⟨e, t, raised, h⟩ := r.finish_cases <;> rw [h]
  · exact .inl rfl
  · exact .inr ⟨rfl, e, only e t raised, rfl⟩

/-- Settles O53: each command's rule raises only what `MayReport` allows it, and its end reports the error's code. -/
theorem everyCommandReportsCompletion : Obligations.EveryCommandReportsCompletion := by
  intro i s
  obtain ⟨t, ht, ok | ⟨hresult, e, he, hstatus⟩⟩ := exec_completes i s
  · exact ⟨t, ht, .inl ok⟩
  · refine ⟨t, ht, .inr ⟨hresult, ?_⟩⟩
    cases e with
    | transport => exact .inl ⟨hstatus, he⟩
    | interruptAttach => exact .inr (.inl ⟨hstatus, he⟩)
    | calibration => exact .inr (.inr ⟨hstatus, he⟩)
    | identityMismatch | notReady | illegalCommand => exact he.elim

end Sys2Proof.Machine
end

section
/-! SUPPORT. What an operation leaves unchanged (R20): the elements of the state, the frame of an operation as the set of
elements it may change, and the frame of each shared operation and of each command. -/

namespace Sys2Proof.Machine

/-! ### Frames -/

/-- The elements of R20. Two pairs are written together: the line with its handle, and the result with the status. -/
inductive Element where
  | opf | intsrs | enabled | delay | debug | lastZone | th | tl | calRef | pol | calHighDone | calLowDone | line | pending
  | completion | alive

/-- The element holds in `t` what it holds in `s`. -/
def Element.Same (s t : State) : Element → Prop
  | .opf => t.opf = s.opf
  | .intsrs => t.intsrs = s.intsrs
  | .enabled => t.enabled = s.enabled
  | .delay => t.delay = s.delay
  | .debug => t.debug = s.debug
  | .lastZone => t.lastZone = s.lastZone
  | .th => t.th = s.th
  | .tl => t.tl = s.tl
  | .calRef => t.calRef = s.calRef
  | .pol => t.pol = s.pol
  | .calHighDone => t.calHighDone = s.calHighDone
  | .calLowDone => t.calLowDone = s.calLowDone
  | .line => t.irqAttached = s.irqAttached ∧ t.irqHandle = s.irqHandle
  | .pending => t.pending = s.pending
  | .completion => t.status = s.status ∧ t.result = s.result
  | .alive => t.alive = s.alive

theorem Element.Same.refl (s : State) (x : Element) : x.Same s s := by
  cases x <;> simp [Element.Same]

theorem Element.Same.trans {s t u : State} {x : Element} (h : x.Same s t) (h' : x.Same t u) : x.Same s u := by
  cases x with
  | line => exact ⟨h'.1.trans h.1, h'.2.trans h.2⟩
  | completion => exact ⟨h'.1.trans h.1, h'.2.trans h.2⟩
  | _ => exact Eq.trans h' h

/-- From `s` to `t` the configuration is kept, and no element changes but those `P` names for it. -/
structure ChangesOnly (P : Config → Element → Prop) (s t : State) : Prop where
  cfg : t.cfg = s.cfg
  same : ∀ x, ¬ P s.cfg x → x.Same s t

/-- The accesses that change nothing but what `P` names: a write to a shadowed register changes its shadow (R56). -/
def WritesOnly (P : Config → Element → Prop) (c : Config) (a : Access) : Prop :=
  (a = .write c.addrOpf → P c .opf) ∧ (a = .write c.addrIntsrs → P c .intsrs)

variable {P : Config → Element → Prop} {s t : State}

theorem ChangesOnly.refl (s : State) : ChangesOnly P s s := ⟨rfl, fun x _ => .refl s x⟩

theorem ChangesOnly.trans {u : State} (h : ChangesOnly P s t) (h' : ChangesOnly P t u) : ChangesOnly P s u where
  cfg := h'.cfg.trans h.cfg
  same x hx := (h.same x hx).trans (h'.same x (h.cfg ▸ hx))

/-- An update of one element that `P` names. -/
theorem ChangesOnly.update (x : Element) (hx : ∀ c, P c x) (hc : t.cfg = s.cfg := by rfl)
    (h : ∀ y : Element, y ≠ x → y.Same s t := by intro y; cases y <;> simp [Element.Same]) : ChangesOnly P s t :=
  ⟨hc, fun y hy => h y fun e => hy (e ▸ hx _)⟩

/-- An update of the model's own fields `env` and `trace`. -/
theorem ChangesOnly.outside (hc : t.cfg = s.cfg := by rfl)
    (h : ∀ y : Element, y.Same s t := by intro y; cases y <;> simp [Element.Same]) : ChangesOnly P s t :=
  ⟨hc, fun y _ => h y⟩

/-! ### The frames of the shared operations -/

theorem shadowAfter_of_ne {a reg : Byte} (h : a ≠ reg) (p : List Byte) (old : Byte) : shadowAfter a reg p old = old := by
  unfold shadowAfter
  split
  · exact if_neg h
  · rfl

variable (P) in
/-- The transport changes the shadows of the registers it writes to, and nothing else. -/
theorem ChangesOnly.keptByBus : KeptByBus (WritesOnly P) (ChangesOnly P) where
  cfg := ChangesOnly.cfg
  refl := .refl
  trans := .trans
  env _ _ := .outside
  quiet _ _ _ _ := .outside
  write s a p hw := by
    refine ⟨rfl, fun y hy => ?_⟩
    cases y with
    | opf => exact shadowAfter_of_ne (fun e => hy (hw.1 (congrArg _ e))) p s.opf
    | intsrs => exact shadowAfter_of_ne (fun e => hy (hw.2 (congrArg _ e))) p s.intsrs
    | _ => simp [Element.Same]

theorem ChangesOnly.keptByLine (hline : ∀ c, P c .line) : KeptByLine (WritesOnly P) (ChangesOnly P) where
  toKeptByBus := ChangesOnly.keptByBus P
  attach _ _ := .update .line hline
  detach _ := .update .line hline

theorem ChangesOnly.keptByPass (hzone : ∀ c, P c .lastZone) (hpending : ∀ c, P c .pending) :
    KeptByPass (WritesOnly P) (ChangesOnly P) where
  toKeptByBus := ChangesOnly.keptByBus P
  zone _ _ _ := .update .lastZone hzone
  arm _ _ := .update .pending hpending

/-- A command's end writes the status and the result. -/
theorem ChangesOnly.commandEnds (hp : ∀ c, P c .completion) {r : Res Word} (h : ChangesOnly P s r.state) :
    ∃ t, commandEnds r = .next t ∧ ChangesOnly P s t := by
  refine ⟨_, rfl, ?_⟩
  obtain ⟨w, c, e⟩ := r.finish_eq
  rw [e]
  exact h.trans (.update .completion hp)

theorem ChangesOnly.noResultEnds (hp : ∀ c, P c .completion) {r : Res Unit} (h : ChangesOnly P s r.state) :
    ∃ t, Machine.commandEnds r.noResult = .next t ∧ ChangesOnly P s t :=
  ChangesOnly.commandEnds hp (r.noResult_state ▸ h)

/-! ### The writers of R20 -/

/-- The commands R20 names as writing an element, with R29 to R38. The shadows follow the registers (R56), and in a
configuration whose registers are distinct (R9) those two are written by the commands named. -/
def WrittenBy (i : Instr) (c : Config) : Element → Prop
  | .opf => c.wf = true → i ∈ [.modePd, .modeMeas, .modeFuse, .enable, .disable, .cal, .calpass1, .calpass2] ∨
      ∃ v, i = .regwr c.addrOpf v
  | .intsrs => c.wf = true → i ∈ [.setdetPoll, .setdetInt, .enable, .cal, .calpass1, .calpass2] ∨
      ∃ v, i = .regwr c.addrIntsrs v
  | .enabled => i = .enable ∨ i = .disable
  | .delay => ∃ ms, i = .setdly ms
  | .debug => ∃ b, i = .setdbg b
  | .lastZone => i = .enable
  | .th => (∃ v, i = .setth v) ∨ i = .calapply1 ∨ i = .calapply2
  | .tl => (∃ v, i = .settl v) ∨ i = .calapply1 ∨ i = .calapply2
  | .calRef => i = .cal ∨ i = .calpass1 ∨ i = .calpass2
  | .pol => ∃ v, i = .setpol v
  | .calHighDone => i = .calpass1
  | .calLowDone => i = .calpass2
  | .line => i ∈ [.modePd, .modeMeas, .enable, .disable, .cal, .calpass1, .calpass2]
  | .pending => i = .enable ∨ i = .disable ∨ ∃ ms, i = .setdly ms
  | .completion => True
  | .alive => False

/-! ### The accesses of a command touch the shadowed registers only where the command is named as their writer -/

theorem Allows.append {W : Config → Access → Prop} {l m : Config → List Access} (hl : Allows W l) (hm : Allows W m) :
    Allows W fun c => l c ++ m c :=
  fun c x hx => (List.mem_append.mp hx).elim (hl c x) (hm c x)

variable {i : Instr}

theorem opfAccess_writesOnly (h : ∀ c, WrittenBy i c .opf) : Allows (WritesOnly (WrittenBy i)) opfAccess := by
  intro c x hx
  obtain rfl := List.mem_singleton.mp hx
  exact ⟨fun _ => h c, fun e wf => absurd (Access.write.inj e) (Config.wf_distinct wf).1⟩

theorem intsrsAccess_writesOnly (h : ∀ c, WrittenBy i c .intsrs) : Allows (WritesOnly (WrittenBy i)) intsrsAccess := by
  intro c x hx
  obtain rfl := List.mem_singleton.mp hx
  exact ⟨fun e wf => absurd (Access.write.inj e).symm (Config.wf_distinct wf).1, fun _ => h c⟩

theorem thresholdAccess_writesOnly : Allows (WritesOnly (WrittenBy i)) thresholdAccess := by
  intro c x hx
  have elsewhere : c.wf = true → x ≠ .write c.addrOpf ∧ x ≠ .write c.addrIntsrs := by
    intro wf
    obtain ⟨-, -, -, away⟩ := Config.wf_distinct wf
    simp only [thresholdAccess, List.mem_cons, List.not_mem_nil, or_false] at hx
    rcases hx with rfl | rfl | rfl | rfl | rfl <;> simp [away]
  exact ⟨fun e wf => absurd e (elsewhere wf).1, fun e wf => absurd e (elsewhere wf).2⟩

theorem readAccess_writesOnly (addr : Config → Byte) : Allows (WritesOnly (WrittenBy i)) fun c => [.read (addr c)] := by
  intro c x hx
  obtain rfl := List.mem_singleton.mp hx
  exact ⟨nofun, nofun⟩

theorem calibrationAccess_writesOnly (ho : ∀ c, WrittenBy i c .opf) (hi : ∀ c, WrittenBy i c .intsrs) :
    Allows (WritesOnly (WrittenBy i)) calibrationAccess :=
  ((opfAccess_writesOnly ho).append (intsrsAccess_writesOnly hi)).append (readAccess_writesOnly _)

theorem commandAccess_writesOnly (i : Instr) : Allows (WritesOnly (WrittenBy i)) fun c => commandAccess c i := by
  cases i with
  | modePd | modeMeas | modeFuse | disable => exact opfAccess_writesOnly (by simp [WrittenBy])
  | setdetPoll => exact intsrsAccess_writesOnly (by simp [WrittenBy])
  | setdetInt => exact (intsrsAccess_writesOnly (by simp [WrittenBy])).append thresholdAccess_writesOnly
  | updthr => exact thresholdAccess_writesOnly
  | enable =>
    have pass : Allows (WritesOnly (WrittenBy .enable)) passAccess :=
      ((intsrsAccess_writesOnly (by simp [WrittenBy])).append thresholdAccess_writesOnly).append (readAccess_writesOnly _)
    exact (opfAccess_writesOnly (by simp [WrittenBy])).append pass
  | cal | calpass1 | calpass2 => exact calibrationAccess_writesOnly (by simp [WrittenBy]) (by simp [WrittenBy])
  | regrd a => exact readAccess_writesOnly fun _ => a
  | chkid => exact readAccess_writesOnly _
  | regwr a v =>
    intro c x hx
    obtain rfl := List.mem_singleton.mp hx
    exact ⟨fun e _ => .inr ⟨v, by rw [Access.write.inj e]⟩, fun e _ => .inr ⟨v, by rw [Access.write.inj e]⟩⟩
  | _ => exact fun c x hx => absurd hx List.not_mem_nil

/-! ### The frame of each command -/

theorem calibrationCommand_changesOnly (hi : i ∈ [.cal, .calpass1, .calpass2]) (mark : State → State)
    (hm : ∀ t, ChangesOnly (WrittenBy i) t (mark t)) (s : State) :
    ChangesOnly (WrittenBy i) s (calibrationCommand mark s).state := by
  have named : ∀ c, WrittenBy i c .opf ∧ WrittenBy i c .intsrs ∧ WrittenBy i c .line ∧ WrittenBy i c .calRef := by
    simp only [List.mem_cons, List.not_mem_nil, or_false] at hi
    rcases hi with rfl | rfl | rfl <;> simp [WrittenBy]
  have access := calibrationAccess_writesOnly (fun c => (named c).1) fun c => (named c).2.1
  have h := (ChangesOnly.keptByLine fun c => (named c).2.2.1).calibrate access s fun t vs =>
    .update .calRef fun c => (named c).2.2.2
  unfold calibrationCommand
  split
  rename_i failed t e
  rw [e] at h
  split
  · exact h
  · exact h.trans (hm t)

theorem enableTransition_changesOnly (s : State) :
    ChangesOnly (WrittenBy .enable) s (enableTransition s).state := by
  have hw := commandAccess_writesOnly .enable
  have line := ChangesOnly.keptByLine (P := WrittenBy .enable) (by simp [WrittenBy])
  have pass := ChangesOnly.keptByPass (P := WrittenBy .enable) (by simp [WrittenBy]) (by simp [WrittenBy])
  exact line.andThen (line.setDetCurrent hw.right.left.left hw.right.left.right s) fun _ t _ =>
    line.andThen (line.setModeMeas hw.left t) fun _ u _ =>
      (pass.startDelivery hw.right u).trans (.update .enabled (by simp [WrittenBy]))

theorem disableTransition_changesOnly (s : State) :
    ChangesOnly (WrittenBy .disable) s (disableTransition s).state := by
  have line := ChangesOnly.keptByLine (P := WrittenBy .disable) (by simp [WrittenBy])
  have cancelled : ChangesOnly (WrittenBy .disable) s s.cancelAndWait := .update .pending (by simp [WrittenBy])
  exact line.andThen (cancelled.trans (line.setModePd (commandAccess_writesOnly .disable) _)) fun _ t _ =>
    .update .enabled (by simp [WrittenBy])

theorem setDelay_changesOnly (ms : Half) (s : State) : ChangesOnly (WrittenBy (.setdly ms)) s (setDelay ms s) := by
  have delayed : ChangesOnly (WrittenBy (.setdly ms)) s { s with delay := clampDelay s.cfg ms } :=
    .update .delay (by simp [WrittenBy])
  unfold setDelay reschedule
  split
  · exact delayed.trans (.update .pending (by simp [WrittenBy]))
  · exact delayed

theorem highFromReference_changesOnly (h : ∀ c, P c .th) (s : State) : ChangesOnly P s (highFromReference s) := by
  unfold highFromReference
  exact .update .th h

theorem lowFromReference_changesOnly (h : ∀ c, P c .tl) (s : State) : ChangesOnly P s (lowFromReference s) := by
  unfold lowFromReference
  exact .update .tl h

/-- Every command ends in a next state, and changes no element but those it is named as writing (R20). -/
theorem exec_changesOnly (i : Instr) (s : State) : ∃ t, exec i s = .next t ∧ ChangesOnly (WrittenBy i) s t := by
  have hw := commandAccess_writesOnly i
  have bus := ChangesOnly.keptByBus (WrittenBy i)
  have line := ChangesOnly.keptByLine (P := WrittenBy i)
  have completion : ∀ c, WrittenBy i c .completion := fun _ => trivial
  have calibration := calibrationCommand_changesOnly (i := i)
  cases i with
  | updthr => exact ChangesOnly.noResultEnds completion (bus.updateThresholds hw s)
  | modePd => exact ChangesOnly.noResultEnds completion ((line (by simp [WrittenBy])).setModePd hw s)
  | modeMeas => exact ChangesOnly.noResultEnds completion ((line (by simp [WrittenBy])).setModeMeas hw s)
  | modeFuse => exact ChangesOnly.noResultEnds completion (bus.setModeFuse hw s)
  | setdetPoll => exact ChangesOnly.noResultEnds completion (bus.setDetPoll hw s)
  | setdetInt => exact ChangesOnly.noResultEnds completion (bus.setDetInt hw.left hw.right s)
  | enable =>
    refine ChangesOnly.commandEnds completion ?_
    split
    · exact .refl s
    · exact (enableTransition s).noResult_state ▸ enableTransition_changesOnly s
  | disable =>
    refine ChangesOnly.commandEnds completion ?_
    split
    · exact (disableTransition s).noResult_state ▸ disableTransition_changesOnly s
    · exact .refl s
  | setdly ms => exact ChangesOnly.commandEnds completion (setDelay_changesOnly ms s)
  | setdbg b => exact ChangesOnly.commandEnds completion (.update .debug fun _ => ⟨b, rfl⟩)
  | setth v => exact ChangesOnly.commandEnds completion (.update .th fun _ => .inl ⟨v, rfl⟩)
  | settl v => exact ChangesOnly.commandEnds completion (.update .tl fun _ => .inl ⟨v, rfl⟩)
  | setpol v => exact ChangesOnly.commandEnds completion (.update .pol fun _ => ⟨v, rfl⟩)
  | cal => exact ChangesOnly.commandEnds completion (calibration (by simp) id .refl s)
  | calpass1 =>
    exact ChangesOnly.commandEnds completion
      (calibration (by simp) _ (fun _ => .update .calHighDone fun _ => rfl) s)
  | calpass2 =>
    exact ChangesOnly.commandEnds completion
      (calibration (by simp) _ (fun _ => .update .calLowDone fun _ => rfl) s)
  | calapply1 =>
    refine ChangesOnly.commandEnds completion ?_
    simp only [Res.state_done]
    split
    · exact highFromReference_changesOnly (fun _ => .inr (.inl rfl)) s
    · exact lowFromReference_changesOnly (fun _ => .inr (.inl rfl)) s
  | calapply2 =>
    refine ChangesOnly.commandEnds completion ?_
    simp only [Res.state_done]
    split
    · exact lowFromReference_changesOnly (fun _ => .inr (.inr rfl)) s
    · exact highFromReference_changesOnly (fun _ => .inr (.inr rfl)) s
  | regrd a =>
    exact ChangesOnly.commandEnds completion
      (bus.andThen (bus.readByte a s (hw _ _ List.mem_cons_self)) fun _ t _ => .refl t)
  | regwr a v => exact ChangesOnly.noResultEnds completion (bus.memWrite a _ s (hw _ _ List.mem_cons_self))
  | chkid =>
    exact ChangesOnly.commandEnds completion
      (bus.andThen (bus.readByte _ s (hw _ _ List.mem_cons_self)) fun _ t _ => .refl t)
  | _ => exact ChangesOnly.commandEnds completion (.refl s)

/-- Settles O50. An element that `exec_changesOnly` does not keep is one the command is named as writing. -/
theorem elementsHaveTheirWriters : Obligations.ElementsHaveTheirWriters := by
  intro i s t wf hst
  obtain ⟨t', ht', frame⟩ := exec_changesOnly i s
  obtain rfl : t' = t := Host.Outcome.next.inj (ht'.symm.trans hst)
  have writer : ∀ x : Element, ¬ x.Same s t' → WrittenBy i s.cfg x := fun x => not_imp_comm.mp (frame.same x)
  refine ⟨writer .enabled, writer .delay, writer .debug, writer .lastZone, writer .th, writer .tl, writer .calRef,
    writer .pol, writer .calHighDone, writer .calLowDone, fun h => writer .line (not_and_or.mpr h), writer .pending,
    fun h => writer .opf h wf, fun h => writer .intsrs h wf, frame.same .alive id, frame.cfg⟩

end Sys2Proof.Machine
end

section
/-! SUPPORT. What a step is, by the event at its boundary and the life of the block (R250, R273); a relation kept by
everything the commands do is kept by every step of a block that stays alive. -/

namespace Sys2Proof.Machine

/-! ### One step, by the event -/

theorem step_alive {s : State} (h : s.alive = true) : step s = takeEvent s.env.event s.dropEvent := if_pos h

theorem step_dead {s : State} (h : s.alive = false) : step s = offerToDead s.env.event s.dropEvent := by
  unfold step atBoundary
  rw [if_neg (by simp [h])]

/-- A block that is not alive goes on only at an INIT (R273). -/
theorem step_dead_next {s t : State} (h : s.alive = false) (hst : step s = .next t) :
    s.env.event = .init ∧ t = initEvent s.dropEvent := by
  rw [step_dead h] at hst
  cases e : s.env.event with
  | init =>
    rw [e] at hst
    exact ⟨rfl, (Host.Outcome.next.inj hst).symm⟩
  | command w | workerRun | irqEdge | detach =>
    rw [e] at hst
    cases hst

theorem step_detach {s : State} (h : s.alive = true) (e : s.env.event = .detach) :
    step s = .next (detachEvent s.dropEvent) := by
  rw [step_alive h, e]
  rfl

/-- Settles O45, by the event at the boundary. -/
theorem deadBlockTakesOnlyInit : Obligations.DeadBlockTakesOnlyInit := by
  intro s h
  rw [step_dead h]
  constructor
  · intro w e
    rw [e]
    rfl
  · rintro (e | e | e) <;> rw [e] <;> rfl

/-! ### The end of the block's life -/

@[simp] theorem detachEvent_alive (s : State) : (detachEvent s).alive = false := rfl

@[simp] theorem detachEvent_cfg (s : State) : (detachEvent s).cfg = s.cfg := by
  simp [detachEvent, detachIfAttached_eq, State.lineReleased]

@[simp] theorem detachEvent_trace (s : State) :
    (detachEvent s).trace = s.trace ++ ([.cancelAndWait] ++ releaseEvents s) := by
  show (detachIfAttached s.cancelAndWait).trace = _
  rw [detachIfAttached_eq]
  exact List.append_assoc s.trace _ _

/-! ### The other events of a live block -/

variable {W : Config → Access → Prop} {R : State → State → Prop}

/-- A command word goes on to a next state, and keeps what every command keeps. -/
theorem KeptByCommands.runCommand (k : KeptByCommands W R) (w : Word) (s : State)
    (hw : Allows W fun c => eventAccess c (.command w)) : ∃ t, runCommand w s = .next t ∧ R s t := by
  unfold Machine.runCommand
  cases h : decode w with
  | ok i => exact k.exec i s fun c x hx => hw c x (by simpa [eventAccess, h] using hx)
  | error _ => exact k.commandEnds (k.refl s)

/-- Every event but DETACH goes on to a next state, and keeps what every command keeps (R247, R248, R271). -/
theorem KeptByCommands.takeEvent (k : KeptByCommands W R) {e : Event} (he : e ≠ .detach) (s : State)
    (hw : Allows W fun c => eventAccess c e) : ∃ t, takeEvent e s = .next t ∧ R s t := by
  cases e with
  | command w => exact k.runCommand w s hw
  | workerRun =>
    refine ⟨_, rfl, ?_⟩
    split
    · exact k.trans (k.arm s false) (k.samplePass hw _)
    · exact k.refl s
  | irqEdge =>
    refine ⟨_, rfl, ?_⟩
    split
    · exact k.schedule s 0
    · exact k.refl s
  | init => exact ⟨s, rfl, k.refl s⟩
  | detach => exact absurd rfl he

/-- Every step of a block that stays alive goes on, and keeps what every command keeps. -/
theorem KeptByCommands.step (k : KeptByCommands W R) {s : State} (alive : s.alive = true) (he : s.env.event ≠ .detach)
    (hw : Allows W fun c => eventAccess c s.env.event) : ∃ t, step s = .next t ∧ R s t := by
  obtain ⟨t, ht, h⟩ := k.takeEvent he s.dropEvent hw
  exact ⟨t, (step_alive alive).trans ht, k.trans (k.env s _) h⟩

end Sys2Proof.Machine
end

section
/-! SUPPORT. The shadows follow the acknowledged writes (I3 of R39). -/

namespace Sys2Proof.Machine

/-- From `s` to `t` the trace grows by events after which each shadow holds what I3 says (R39). -/
structure FollowsWrites (s t : State) : Prop where
  cfg : t.cfg = s.cfg
  alive : t.alive = s.alive
  shadows : ∃ new, t.trace = s.trace ++ new ∧
    t.opf = lastWritten s.cfg.addrOpf s.opf new ∧ t.intsrs = lastWritten s.cfg.addrIntsrs s.intsrs new

theorem lastWritten_quiet (reg old : Byte) {x : Emitted} (h : x.quiet = true) : lastWritten reg old [x] = old := by
  cases x with
  | busWrite a p ack =>
    obtain rfl : ack = false := by simpa [Emitted.quiet] using h
    simp [lastWritten]
  | _ => rfl

theorem lastWritten_acked (reg old a : Byte) (p : List Byte) :
    lastWritten reg old [.busWrite a p true] = shadowAfter a reg p old :=
  match p with
  | [] => rfl
  | [_] => rfl
  | _ :: _ :: _ => rfl

/-- An operation that emits nothing and writes no shadow. -/
theorem FollowsWrites.silent {s t : State} (cfg : t.cfg = s.cfg := by rfl) (alive : t.alive = s.alive := by rfl)
    (trace : t.trace = s.trace := by rfl) (opf : t.opf = s.opf := by rfl) (intsrs : t.intsrs = s.intsrs := by rfl) :
    FollowsWrites s t := ⟨cfg, alive, [], by simp [trace], opf, intsrs⟩

/-- An operation that emits one event and writes what I3 says of it. -/
theorem FollowsWrites.one {s t : State} (x : Emitted) (cfg : t.cfg = s.cfg := by rfl)
    (alive : t.alive = s.alive := by rfl) (trace : t.trace = s.trace ++ [x] := by rfl)
    (opf : t.opf = lastWritten s.cfg.addrOpf s.opf [x] := by rfl)
    (intsrs : t.intsrs = lastWritten s.cfg.addrIntsrs s.intsrs [x] := by rfl) : FollowsWrites s t :=
  ⟨cfg, alive, [x], trace, opf, intsrs⟩

theorem FollowsWrites.trans {s t u : State} (h : FollowsWrites s t) (h' : FollowsWrites t u) : FollowsWrites s u := by
  obtain ⟨cfg, alive, new, trace, opf, intsrs⟩ := h
  obtain ⟨cfg', alive', new', trace', opf', intsrs'⟩ := h'
  refine ⟨cfg'.trans cfg, alive'.trans alive, new ++ new', ?_, ?_, ?_⟩
  · rw [trace', trace, List.append_assoc]
  · rw [opf', opf, cfg, lastWritten_append]
  · rw [intsrs', intsrs, cfg, lastWritten_append]

theorem followsWrites_kept : KeptByCommands (fun _ _ => True) FollowsWrites where
  cfg := FollowsWrites.cfg
  refl _ := .silent
  trans := .trans
  env _ _ := .silent
  quiet _ x h _ := .one x (opf := (lastWritten_quiet _ _ h).symm) (intsrs := (lastWritten_quiet _ _ h).symm)
  write _ a p _ := .one _ (opf := (lastWritten_acked _ _ a p).symm) (intsrs := (lastWritten_acked _ _ a p).symm)
  attach _ _ := .silent
  detach _ := .silent
  zone _ _ v := .one (.publish v)
  arm _ _ := .silent
  ends _ _ _ := .silent
  lifecycle _ _ := .silent
  delay _ _ := .silent
  debug _ _ := .silent
  high _ _ := .silent
  low _ _ := .silent
  polarity _ _ := .silent
  reference _ _ := .silent
  highDone _ := .silent
  lowDone _ := .silent

/-- Settles O49: a DETACH is read off its own equations, and every other event keeps `FollowsWrites`. -/
theorem shadowsFollowAcknowledgedWrites : Obligations.ShadowsFollowAcknowledgedWrites := by
  intro s t alive hst
  by_cases he : s.env.event = .detach
  · obtain rfl : detachEvent s.dropEvent = t := Host.Outcome.next.inj ((step_detach alive he).symm.trans hst)
    exact ⟨by simp [he], _, detachEvent_trace _, detachEvent_cfg _, by simp⟩
  · obtain ⟨t', ht', follows⟩ := followsWrites_kept.step alive he fun _ _ _ => trivial
    obtain rfl : t' = t := Host.Outcome.next.inj (ht'.symm.trans hst)
    obtain ⟨cfg, life, new, trace, shadows⟩ := follows
    exact ⟨by simp [he, life, alive], new, trace, cfg, fun _ => shadows⟩

end Sys2Proof.Machine
end

section
/-! SUPPORT. A sample and a mean of samples lie in −512 to 511 (R123, R124, R211), so a calibration leaves a reference of
R34. -/

namespace Sys2Proof.Machine

/-- The numbers the codec gives, and with them the references of R34. -/
def InSampleRange (v : Int) : Prop := -512 ≤ v ∧ v ≤ 511

/-! ### Samples and their mean -/

theorem decode8_inSampleRange (hi lo : Byte) : InSampleRange (decode8 hi lo) := by
  have h : (lo &&& 0x7F).toNat ≤ 127 := by
    rw [BitVec.toNat_and]
    exact Nat.and_le_right
  unfold InSampleRange decode8
  dsimp only
  split <;> omega

theorem decode10_inSampleRange (hi lo : Byte) : InSampleRange (decode10 hi lo) := by
  have h := (hi.extractLsb' 6 1 ++ lo : BitVec (1 + 8)).isLt
  unfold InSampleRange decode10
  dsimp only
  split <;> omega

theorem decodeSample_inSampleRange (r : Resolution) (hi lo : Byte) : InSampleRange (decodeSample r hi lo) := by
  cases r with
  | eight => exact decode8_inSampleRange hi lo
  | ten => exact decode10_inSampleRange hi lo

theorem toS16_toInt {v : Int} (h : -32768 ≤ v ∧ v ≤ 32767) : (toS16 v).toInt = v := by
  rw [toS16, if_pos h]
  exact BitVec.toInt_ofInt_eq_self (by decide) (by omega) (by omega)

/-- The quotient rounded toward zero of a sum of `n` numbers lies between the bounds of the numbers (R211). -/
theorem truncDiv_sum_inSampleRange {vs : List Int} {n : Nat} (hn : 1 ≤ n) (len : vs.length = n)
    (h : ∀ v ∈ vs, InSampleRange v) : InSampleRange (truncDiv vs.sum n) := by
  have pos : (0 : Int) < n := by omega
  have low : (-512) * (n : Int) ≤ vs.sum := by
    simpa [len, mul_comm] using vs.card_nsmul_le_sum (-512) fun v hv => (h v hv).1
  have high : vs.sum ≤ 511 * (n : Int) := by
    simpa [len, mul_comm] using vs.sum_le_card_nsmul 511 fun v hv => (h v hv).2
  have low := Int.tdiv_le_tdiv pos low
  have high := Int.tdiv_le_tdiv pos high
  rw [Int.mul_tdiv_cancel _ pos.ne'] at low high
  exact ⟨low, high⟩

theorem meanOf_inSampleRange {vs : List Int} {n : Nat} (hn : 1 ≤ n) (len : vs.length = n)
    (h : ∀ v ∈ vs, InSampleRange v) : InSampleRange (meanOf vs n).toInt := by
  obtain ⟨low, high⟩ := truncDiv_sum_inSampleRange hn len h
  rw [meanOf, if_neg (by omega), toS16_toInt (by omega)]
  exact ⟨low, high⟩

/-! ### What a calibration reads -/

theorem Res.andThen_eq_done {α β : Type} {r : Res α} {f : α → State → Res β} {v : β} {t : State}
    (h : r.andThen f = .done v t) : ∃ x u, r = .done x u ∧ f x u = .done v t := by
  cases r with
  | done x u => exact ⟨x, u, rfl, h⟩
  | raised e u => cases h

theorem readSample_inSampleRange {s t : State} {v : Int} (h : readSample s = .done v t) : InSampleRange v := by
  obtain ⟨b, u, -, h⟩ := Res.andThen_eq_done h
  split at h
  · cases h
  · cases h
    exact decodeSample_inSampleRange _ _ _

/-- One sample read ahead of `n` more. -/
theorem sampleAhead_inSampleRange {n : Nat} {s t : State} {vs : List Int}
    (later : ∀ {u w : State} {ws : List Int}, moreSamples n u = .done ws w → ws.length = n ∧ ∀ v ∈ ws, InSampleRange v)
    (h : ((readSample s).andThen fun v u => (moreSamples n u).andThen fun ws w => .done (v :: ws) w) = .done vs t) :
    vs.length = n + 1 ∧ ∀ v ∈ vs, InSampleRange v := by
  obtain ⟨v, u, first, h⟩ := Res.andThen_eq_done h
  obtain ⟨ws, w, more, h⟩ := Res.andThen_eq_done h
  obtain ⟨len, range⟩ := later more
  cases h
  exact ⟨by simp [len], List.forall_mem_cons.mpr ⟨readSample_inSampleRange first, range⟩⟩

theorem moreSamples_inSampleRange {n : Nat} {s t : State} {vs : List Int} (h : moreSamples n s = .done vs t) :
    vs.length = n ∧ ∀ v ∈ vs, InSampleRange v := by
  induction n generalizing s t vs with
  | zero =>
    cases h
    simp
  | succ n ih => exact sampleAhead_inSampleRange ih h

theorem takeSamples_inSampleRange {n : Nat} {s t : State} {vs : List Int} (h : takeSamples n s = .done vs t) :
    vs.length = n ∧ ∀ v ∈ vs, InSampleRange v := by
  cases n with
  | zero =>
    cases h
    simp
  | succ n => exact sampleAhead_inSampleRange moreSamples_inSampleRange h

/-! ### The reference a calibration leaves -/

/-- What the steps of a calibration change beside the reference: the shadows and the line (R210). -/
def calibrationElements (_ : Config) (x : Element) : Prop := x ∈ [.opf, .intsrs, .line]

theorem calibrationElements_line : KeptByLine (WritesOnly calibrationElements) (ChangesOnly calibrationElements) :=
  ChangesOnly.keptByLine (by simp [calibrationElements])

theorem calibrationElements_allows (l : Config → List Access) : Allows (WritesOnly calibrationElements) l :=
  fun _ _ _ => ⟨fun _ => by simp [calibrationElements], fun _ => by simp [calibrationElements]⟩

theorem ChangesOnly.calRef_eq {s t : State} (h : ChangesOnly calibrationElements s t) : t.calRef = s.calRef :=
  h.same .calRef (by simp [calibrationElements])

/-- A measurement that raises leaves the reference, and one that is done makes it a mean of samples (R211, R212). -/
theorem calMeasure_inSampleRange {s : State} (hn : 1 ≤ s.cfg.calN) (h : InSampleRange s.calRef.toInt) :
    InSampleRange (calMeasure s).state.calRef.toInt := by
  have prepared := calibrationElements_line.calPrepare (calibrationElements_allows _) (calibrationElements_allows _) s
  unfold calMeasure
  cases hp : calPrepare s with
  | raised e t =>
    rw [hp] at prepared
    rw [Res.andThen_raised, prepared.calRef_eq]
    exact h
  | done _ t =>
    rw [hp] at prepared
    have sampled := calibrationElements_line.takeSamples (calibrationElements_allows _) t.cfg.calN t
    rw [Res.andThen_done]
    cases hs : takeSamples t.cfg.calN t with
    | raised e u =>
      rw [hs] at sampled
      rw [Res.andThen_raised, Res.state_raised, show u.calRef = s.calRef from (prepared.trans sampled).calRef_eq]
      exact h
    | done vs u =>
      rw [hs] at sampled
      obtain ⟨len, range⟩ := takeSamples_inSampleRange hs
      have samples : u.cfg.calN = s.cfg.calN := congrArg Config.calN (prepared.trans sampled).cfg
      refine meanOf_inSampleRange (samples ▸ hn) ?_ range
      rw [len, show u.cfg = t.cfg from sampled.cfg]

theorem calibrate_inSampleRange {s : State} (hn : 1 ≤ s.cfg.calN) (h : InSampleRange s.calRef.toInt) :
    InSampleRange (calibrate s).2.calRef.toInt := by
  have detached := calibrationElements_line.detachIfAttached s
  have restored := calibrationElements_line.calRestore (calibrationElements_allows _) (calibrationElements_allows _)
  unfold calibrate
  simp only [(restored _ _ _).calRef_eq, Res.caught_state]
  exact calMeasure_inSampleRange (detached.cfg ▸ hn) (detached.calRef_eq ▸ h)

/-- The three calibration commands leave a reference of R34, if their done flag is all that `mark` writes. -/
theorem calibrationCommand_inSampleRange {s t : State} (hn : 1 ≤ s.cfg.calN) (h : InSampleRange s.calRef.toInt)
    {mark : State → State} (hst : commandEnds (calibrationCommand mark s) = .next t)
    (hm : ∀ u, (mark u).calRef = u.calRef) : InSampleRange t.calRef.toInt := by
  have kept : t.calRef = (calibrate s).2.calRef := by
    obtain ⟨w, c, e⟩ := (calibrationCommand mark s).finish_eq
    obtain rfl := Host.Outcome.next.inj hst
    rw [e]
    unfold calibrationCommand
    obtain ⟨failed, u⟩ := calibrate s
    cases failed
    · exact hm u
    · rfl
  rw [kept]
  exact calibrate_inSampleRange hn h

end Sys2Proof.Machine
end

section
/-! SUPPORT. The legal states: what each event may change of what the invariant speaks of (R39, R34, R240, R38). -/

namespace Sys2Proof.Machine

/-- Settles O48: each condition is a closed fact about the reset state and REFCFG. -/
theorem resetIsLegal : Obligations.ResetIsLegal where
  cfgWf := by decide
  refReset := by decide
  delayFloor := by decide
  attachedIff := by decide
  refRange := by decide
  statusKnown := by decide
  deadIdle := nofun

/-! ### The invariant across a frame -/

/-- A state is legal again when every element the invariant speaks of is either outside the frame or legal. -/
theorem Inv.of_changesOnly {P : Config → Element → Prop} {s t : State} (h : Inv s) (f : ChangesOnly P s t)
    (delay : P s.cfg .delay → s.cfg.delayMin ≤ t.delay)
    (line : P s.cfg .line → (t.irqAttached = true ↔ t.irqHandle ≠ none))
    (ref : P s.cfg .calRef → InSampleRange t.calRef.toInt)
    (status : P s.cfg .completion → t.status ≤ 6)
    (idle : t.alive = false → t.pending = false ∧ t.irqAttached = false) : Inv t where
  cfgWf := f.cfg ▸ h.cfgWf
  refReset := f.cfg ▸ h.refReset
  delayFloor := by
    rw [f.cfg]
    by_cases p : P s.cfg .delay
    · exact delay p
    · exact (show t.delay = s.delay from f.same .delay p) ▸ h.delayFloor
  attachedIff := by
    by_cases p : P s.cfg .line
    · exact line p
    · obtain ⟨attached, handle⟩ := f.same .line p
      rw [attached, handle]
      exact h.attachedIff
  refRange := by
    by_cases p : P s.cfg .calRef
    · exact ref p
    · exact (show t.calRef = s.calRef from f.same .calRef p) ▸ h.refRange
  statusKnown := by
    by_cases p : P s.cfg .completion
    · exact status p
    · exact (f.same .completion p).1 ▸ h.statusKnown
  deadIdle := idle

theorem Inv.dropEvent {s : State} (h : Inv s) : Inv s.dropEvent :=
  h.of_changesOnly (P := fun _ _ => False) .outside nofun nofun nofun nofun h.deadIdle

/-! ### The line -/

/-- The line is attached exactly when there is a handle, if that was so before (I2 of R39). -/
structure KeepsAttachedIff (s t : State) : Prop where
  cfg : t.cfg = s.cfg
  iff : (s.irqAttached = true ↔ s.irqHandle ≠ none) → (t.irqAttached = true ↔ t.irqHandle ≠ none)

theorem KeepsAttachedIff.same {s t : State} (cfg : t.cfg = s.cfg := by rfl)
    (attached : t.irqAttached = s.irqAttached := by rfl) (handle : t.irqHandle = s.irqHandle := by rfl) :
    KeepsAttachedIff s t := ⟨cfg, by rw [attached, handle]; exact id⟩

theorem keepsAttachedIff_kept : KeptByCommands (fun _ _ => True) KeepsAttachedIff where
  cfg := KeepsAttachedIff.cfg
  refl _ := .same
  trans h h' := ⟨h'.cfg.trans h.cfg, h'.iff ∘ h.iff⟩
  env _ _ := .same
  quiet _ _ _ _ := .same
  write _ _ _ _ := .same
  attach _ _ := ⟨rfl, fun _ => by simp⟩
  detach _ := ⟨rfl, fun _ => by simp⟩
  zone _ _ _ := .same
  arm _ _ := .same
  ends _ _ _ := .same
  lifecycle _ _ := .same
  delay _ _ := .same
  debug _ _ := .same
  high _ _ := .same
  low _ _ := .same
  polarity _ _ := .same
  reference _ _ := .same
  highDone _ := .same
  lowDone _ := .same

/-! ### A command -/

theorem clampDelay_floor (c : Config) (ms : Half) : c.delayMin ≤ clampDelay c ms := by
  unfold clampDelay
  split
  · exact BitVec.le_refl _
  · exact BitVec.not_lt.mp ‹_›

theorem setDelay_floor (ms : Half) (s : State) : s.cfg.delayMin ≤ (setDelay ms s).delay := by
  have same : (setDelay ms s).delay = clampDelay s.cfg ms := by
    unfold setDelay reschedule
    split <;> simp
  rw [same]
  exact clampDelay_floor s.cfg ms

/-- A command keeps the legal states: SETDLY clamps, a calibration leaves a mean, and each ends with a code of R240. -/
theorem exec_keeps_inv {i : Instr} {s t : State} (h : Inv s) (alive : s.alive = true) (hst : exec i s = .next t) :
    Inv t := by
  obtain ⟨t', ht', frame⟩ := exec_changesOnly i s
  obtain rfl : t' = t := Host.Outcome.next.inj (ht'.symm.trans hst)
  have still : t'.alive = true := (show t'.alive = s.alive from frame.same .alive id).trans alive
  refine h.of_changesOnly frame ?delay ?line ?ref ?status (by simp [still])
  case delay =>
    rintro ⟨ms, rfl⟩
    obtain rfl := Host.Outcome.next.inj hst
    exact setDelay_floor ms s
  case line =>
    obtain ⟨u, hu, kept⟩ := keepsAttachedIff_kept.exec i s fun _ _ _ => trivial
    obtain rfl : u = t' := Host.Outcome.next.inj (hu.symm.trans hst)
    exact fun _ => kept.iff h.attachedIff
  case ref =>
    have samples := (Config.wf_spec h.cfgWf).samples
    rintro (rfl | rfl | rfl) <;> exact calibrationCommand_inSampleRange samples h.refRange hst fun _ => rfl
  case status =>
    intro _
    obtain ⟨u, hu, ok | ⟨-, e, -, code⟩⟩ := exec_completes i s <;>
      obtain rfl : u = t' := Host.Outcome.next.inj (hu.symm.trans hst)
    · rw [ok]; decide
    · rw [code]; exact e.code_le_six

theorem runCommand_keeps_inv {w : Word} {s t : State} (h : Inv s) (alive : s.alive = true)
    (hst : runCommand w s = .next t) : Inv t := by
  unfold runCommand at hst
  split at hst
  · exact exec_keeps_inv h alive hst
  · obtain rfl := Host.Outcome.next.inj hst
    have ended : ChangesOnly (fun _ x => x = .completion) s (s.raise .illegalCommand) := .update .completion fun _ => rfl
    exact h.of_changesOnly ended nofun nofun nofun (fun _ => Err.code_le_six _) h.deadIdle

/-! ### A worker run and an edge -/

/-- What the events of a live block that are no command and no DETACH change (R190, R248). -/
def passElements (_ : Config) (x : Element) : Prop := x ∈ [.opf, .intsrs, .lastZone, .pending]

theorem workerRun_changesOnly (s : State) : ChangesOnly passElements s (workerRun s) := by
  have pass := ChangesOnly.keptByPass (P := passElements) (by simp [passElements]) (by simp [passElements])
  refine pass.trans (pass.arm s false) (pass.samplePass ?_ _)
  exact fun _ _ _ => ⟨fun _ => by simp [passElements], fun _ => by simp [passElements]⟩

theorem irqEdge_changesOnly (s : State) : ChangesOnly passElements s (irqEdge s) := by
  unfold irqEdge
  exact .update .pending (by simp [passElements])

theorem Inv.of_passElements {s t : State} (h : Inv s) (alive : s.alive = true) (f : ChangesOnly passElements s t) :
    Inv t := by
  have still : t.alive = true := (show t.alive = s.alive from f.same .alive (by simp [passElements])).trans alive
  exact h.of_changesOnly f (by simp [passElements]) (by simp [passElements]) (by simp [passElements])
    (by simp [passElements]) (by simp [still])

/-! ### DETACH and INIT -/

theorem detachEvent_keeps_inv {s : State} (h : Inv s) : Inv (detachEvent s) := by
  have frame : ChangesOnly (fun _ _ => True) s (detachEvent s) := ⟨detachEvent_cfg s, fun _ p => absurd trivial p⟩
  refine h.of_changesOnly frame (fun _ => ?_) (fun _ => ?_) (fun _ => ?_) (fun _ => ?_) fun _ => ⟨rfl, rfl⟩
  · exact detachEvent_cfg s ▸ State.lose_delayMin (detachIfAttached s.cancelAndWait)
  · simp [detachEvent]
  · exact State.lose_calRef_range (detachIfAttached s.cancelAndWait)
  · exact State.lose_status_le (detachIfAttached s.cancelAndWait)

theorem initDefaults_keeps_inv {s : State} (h : Inv s) : Inv (initDefaults s) where
  cfgWf := h.cfgWf
  refReset := h.refReset
  delayFloor := (Config.wf_spec h.cfgWf).delay
  attachedIff := by simp [initDefaults]
  refRange := h.refReset
  statusKnown := by simp [initDefaults]
  deadIdle _ := ⟨rfl, rfl⟩

/-- What INIT changes after the defaults, while no line is attached (R272). -/
def initElements (_ : Config) (x : Element) : Prop := x ∈ [.opf, .intsrs, .alive]

theorem ChangesOnly.andThen {P : Config → Element → Prop} {α β : Type} {s : State} {r : Res α}
    {f : α → State → Res β} (h : ChangesOnly P s r.state)
    (hf : ∀ v t, ChangesOnly P s t → ChangesOnly P t (f v t).state) : ChangesOnly P s (r.andThen f).state := by
  cases r with
  | done v t => exact h.trans (hf v t h)
  | raised e t => exact h

theorem initSequence_changesOnly {s : State} (free : s.irqAttached = false) :
    ChangesOnly initElements s (initSequence s).state := by
  have bus := ChangesOnly.keptByBus initElements
  have any : ∀ c a, WritesOnly initElements c a := fun _ _ =>
    ⟨fun _ => by simp [initElements], fun _ => by simp [initElements]⟩
  have reseeded : ∀ t, ChangesOnly initElements t (reseedShadows t) := fun t =>
    ⟨rfl, fun x => by cases x <;> simp [initElements, Element.Same, reseedShadows]⟩
  have checked : ∀ t, ChangesOnly initElements t (checkIdentity t).state := by
    refine fun t => bus.andThen (bus.readByte _ t (any _ _)) fun b u _ => ?_
    split <;> exact .refl u
  refine ChangesOnly.andThen (bus.memWrite _ _ s (any _ _)) fun _ t ht => ?_
  refine ChangesOnly.andThen ((reseeded t).trans (checked _)) fun _ u hu => ?_
  have unattached : u.irqAttached = false :=
    ((ht.trans hu).same .line (by simp [initElements])).1.trans free
  refine ChangesOnly.andThen ?_ fun _ v _ => .update .alive (by simp [initElements])
  rw [setModePd, detachIfAttached, if_neg (by simp [unattached])]
  exact bus.writeOpf (fun c a _ => any c a) _ u

/-- INIT ends legal whether or not it raises: no line is attached and no pass owed on the way (R270, R272, R273). -/
theorem initEvent_keeps_inv {s : State} (h : Inv s) : Inv (initEvent s) := by
  have frame := initSequence_changesOnly (s := initDefaults s) rfl
  have idle : ∀ {t}, ChangesOnly initElements (initDefaults s) t → t.pending = false ∧ t.irqAttached = false :=
    fun f => ⟨f.same .pending (by simp [initElements]), (f.same .line (by simp [initElements])).1⟩
  have reached : Inv (initSequence (initDefaults s)).state :=
    (initDefaults_keeps_inv h).of_changesOnly frame (by simp [initElements]) (by simp [initElements])
      (by simp [initElements]) (by simp [initElements]) fun _ => idle frame
  unfold initEvent
  cases e : initSequence (initDefaults s) with
  | done _ t =>
    rw [e] at reached
    exact reached
  | raised err t =>
    rw [e] at reached frame
    have ended : ChangesOnly (fun _ x => x = .completion) t (t.raise err) := .update .completion fun _ => rfl
    exact reached.of_changesOnly ended nofun nofun nofun (fun _ => err.code_le_six) fun _ => idle (t := t) frame

/-! ### Every step -/

theorem takeEvent_keeps_inv {e : Event} {s t : State} (h : Inv s) (alive : s.alive = true)
    (hst : takeEvent e s = .next t) : Inv t := by
  cases e with
  | command w => exact runCommand_keeps_inv h alive hst
  | workerRun =>
    obtain rfl := Host.Outcome.next.inj hst
    split
    · exact h.of_passElements alive (workerRun_changesOnly s)
    · exact h
  | irqEdge =>
    obtain rfl := Host.Outcome.next.inj hst
    split
    · exact h.of_passElements alive (irqEdge_changesOnly s)
    · exact h
  | init =>
    obtain rfl := Host.Outcome.next.inj hst
    exact h
  | detach =>
    obtain rfl := Host.Outcome.next.inj hst
    exact detachEvent_keeps_inv h

/-- Settles O47, by the life of the block: a block that is not alive goes on only at an INIT. -/
theorem stepKeepsLegalStates : Obligations.StepKeepsLegalStates := by
  intro s t h hst
  cases alive : s.alive with
  | true => exact takeEvent_keeps_inv h.dropEvent alive ((step_alive alive).symm.trans hst)
  | false =>
    obtain ⟨-, rfl⟩ := step_dead_next alive hst
    exact initEvent_keeps_inv h.dropEvent

end Sys2Proof.Machine
end

section
/-! SUPPORT. The debug flag is read by no operation (R31): run from two states that differ only in it, each operation ends
alike, in two states that differ only in it. -/

namespace Sys2Proof.Machine

/-- The state with another debug flag. -/
def State.setDebug (s : State) (b : Bool) : State := { s with debug := b }

@[simp] theorem State.setDebug_opf (s : State) (b : Bool) : (s.setDebug b).opf = s.opf := rfl
@[simp] theorem State.setDebug_intsrs (s : State) (b : Bool) : (s.setDebug b).intsrs = s.intsrs := rfl
@[simp] theorem State.setDebug_irqAttached (s : State) (b : Bool) : (s.setDebug b).irqAttached = s.irqAttached := rfl
@[simp] theorem State.setDebug_cfg (s : State) (b : Bool) : (s.setDebug b).cfg = s.cfg := rfl

/-- The same end, in a state with another debug flag. -/
def Res.withDebug {α : Type} (b : Bool) : Res α → Res α
  | .done v s => .done v (s.setDebug b)
  | .raised e s => .raised e (s.setDebug b)

/-- The operation ends alike from two states that differ only in the debug flag, in two that differ only in it. -/
def DebugBlind {α : Type} (f : State → Res α) : Prop := ∀ b s, f (s.setDebug b) = (f s).withDebug b

/-- The same of a state update, which always goes on. -/
def DebugKept (f : State → State) : Prop := ∀ b s, f (s.setDebug b) = (f s).setDebug b

variable {α β : Type}

/-! ### Composition -/

theorem DebugBlind.done (v : α) : DebugBlind (Res.done v) := fun _ _ => rfl

theorem DebugBlind.raised (e : Err) : DebugBlind (Res.raised e : State → Res α) := fun _ _ => rfl

theorem DebugBlind.andThen {f : State → Res α} {g : α → State → Res β} (hf : DebugBlind f) (hg : ∀ v, DebugBlind (g v)) :
    DebugBlind fun s => (f s).andThen g := by
  intro b s
  show (f (s.setDebug b)).andThen g = ((f s).andThen g).withDebug b
  rw [hf b s]
  cases f s with
  | done v t => exact hg v b t
  | raised e t => rfl

/-- A choice by a test that the flag does not enter. -/
theorem DebugBlind.ite {c : State → Prop} [∀ s, Decidable (c s)] {f g : State → Res α}
    (hc : ∀ b s, c (s.setDebug b) ↔ c s) (hf : DebugBlind f) (hg : DebugBlind g) :
    DebugBlind fun s => if c s then f s else g s := by
  intro b s
  by_cases h : c s
  · simpa only [h, (hc b s).mpr h, if_true] using hf b s
  · simpa only [h, mt (hc b s).mp h, if_false] using hg b s

/-- An operation that takes an operand from elsewhere in the state. -/
theorem DebugBlind.operand {f : α → State → Res β} (g : State → α) (hf : ∀ v, DebugBlind (f v))
    (hg : ∀ b s, g (s.setDebug b) = g s := by intros; rfl) : DebugBlind fun s => f (g s) s := by
  intro b s
  show f (g (s.setDebug b)) (s.setDebug b) = _
  rw [hg b s]
  exact hf (g s) b s

theorem DebugBlind.after {f : State → Res α} {u : State → State} (hf : DebugBlind f) (hu : DebugKept u) :
    DebugBlind fun s => f (u s) := by
  intro b s
  show f (u (s.setDebug b)) = _
  rw [hu b s]
  exact hf b (u s)

theorem Res.caught_withDebug (r : Res α) (b failed : Bool) :
    (r.withDebug b).caught failed = ((r.caught failed).1, (r.caught failed).2.setDebug b) := by
  cases r <;> rfl

theorem Res.noResult_withDebug (r : Res Unit) (b : Bool) : (r.withDebug b).noResult = r.noResult.withDebug b := by
  cases r <;> rfl

theorem Res.finish_withDebug (r : Res Word) (b : Bool) : (r.withDebug b).finish = r.finish.setDebug b := by
  cases r <;> rfl

/-! ### The transport -/

theorem memRead_debugBlind (addr : Byte) (n : Nat) : DebugBlind (memRead addr n) := by
  intro b s
  unfold memRead
  show (if n < 1 ∨ s.cfg.maxXfer < n then _ else if s.env.ack then _ else _) = _
  split
  · rfl
  · split <;> rfl

theorem settle_debugKept (addr : Byte) : DebugKept fun s => s.settle addr := by
  intro b s
  show (if addr = s.cfg.addrSrst then _ else _) = State.setDebug (if addr = s.cfg.addrSrst then _ else _) b
  split <;> rfl

theorem memWrite_debugBlind (addr : Byte) (payload : List Byte) : DebugBlind (memWrite addr payload) := by
  intro b s
  unfold memWrite
  show (if payload.length < 1 ∨ s.cfg.maxXfer < payload.length then _ else if s.env.ack then _ else _) = _
  split
  · rfl
  · split
    · exact congrArg (Res.done ()) (settle_debugKept addr b
        ((s.dropAck.emit (.busWrite addr payload true)).shadowUpdate addr payload))
    · rfl

theorem memWrites_debugBlind (ws : List (Byte × Byte)) : DebugBlind (memWrites ws) := by
  induction ws with
  | nil => exact .done ()
  | cons w ws ih => exact (memWrite_debugBlind w.1 [w.2]).andThen fun _ => ih

theorem readByte_debugBlind (addr : Byte) : DebugBlind (readByte addr) :=
  (memRead_debugBlind addr 1).andThen fun _ => .done _

theorem writeOpf_debugBlind (v : Byte) : DebugBlind (writeOpf v) :=
  .operand (fun s => s.cfg.addrOpf) fun a => memWrite_debugBlind a [v]

theorem writeIntsrs_debugBlind (v : Byte) : DebugBlind (writeIntsrs v) :=
  .operand (fun s => s.cfg.addrIntsrs) fun a => memWrite_debugBlind a [v]

theorem updateThresholds_debugBlind : DebugBlind updateThresholds :=
  .operand thresholdWrites memWrites_debugBlind

theorem writeTypeFor_debugBlind (z : Zone) : DebugBlind (writeTypeFor z) :=
  .ite (fun _ _ => Iff.rfl) (.done ()) (.operand _ writeIntsrs_debugBlind)

theorem readSample_debugBlind : DebugBlind readSample :=
  (DebugBlind.operand (fun s => (s.cfg.sampleAddr, s.cfg.sampleLen)) fun p => memRead_debugBlind p.1 p.2).andThen fun _ =>
    .ite (fun _ _ => Iff.rfl) (.raised _) (.operand _ DebugBlind.done)

/-! ### The line -/

theorem irqAttach_debugBlind : DebugBlind irqAttach := by
  intro b s
  unfold irqAttach
  show (match s.env.grant with | some h => _ | none => _) = _
  cases s.env.grant <;> rfl

theorem detachIfAttached_debugKept : DebugKept detachIfAttached := by
  intro b s
  show (if s.irqAttached then _ else _) = State.setDebug (if s.irqAttached then _ else _) b
  split <;> rfl

/-! ### Modes and detection modes -/

theorem setModePd_debugBlind : DebugBlind setModePd :=
  (DebugBlind.operand (fun s => clearBit s.opf s.cfg.opfActive) writeOpf_debugBlind).after detachIfAttached_debugKept

theorem setModeMeas_debugBlind : DebugBlind setModeMeas :=
  (DebugBlind.operand _ writeOpf_debugBlind).andThen fun _ => .ite (fun _ _ => Iff.rfl) irqAttach_debugBlind (.done ())

theorem setModeFuse_debugBlind : DebugBlind setModeFuse := .operand _ writeOpf_debugBlind

theorem setDetPoll_debugBlind : DebugBlind setDetPoll := .operand _ writeIntsrs_debugBlind

theorem setDetInt_debugBlind : DebugBlind setDetInt :=
  (DebugBlind.operand _ writeTypeFor_debugBlind).andThen fun _ => updateThresholds_debugBlind.andThen fun _ =>
    .operand _ writeIntsrs_debugBlind

theorem setDetCurrent_debugBlind : DebugBlind setDetCurrent :=
  .ite (fun _ _ => Iff.rfl) setDetInt_debugBlind setDetPoll_debugBlind

/-! ### The sample pass -/

theorem classifySample_debugKept (raw : Int) : DebugKept (classifySample raw) := fun _ _ => rfl

theorem reprogram_debugBlind : DebugBlind reprogram :=
  .ite (fun _ _ => Iff.rfl)
    ((DebugBlind.operand _ writeTypeFor_debugBlind).andThen fun _ => updateThresholds_debugBlind) (.done ())

theorem passBody_debugBlind : DebugBlind passBody :=
  readSample_debugBlind.andThen fun raw => reprogram_debugBlind.after (classifySample_debugKept raw)

theorem logFailure_withDebug (r : Res Unit) (b : Bool) : logFailure (r.withDebug b) = (logFailure r).setDebug b := by
  cases r <;> rfl

/-- A choice of updates by a test that the flag does not enter. -/
theorem DebugKept.ite {c : State → Prop} [∀ s, Decidable (c s)] {f g : State → State}
    (hc : ∀ b s, c (s.setDebug b) ↔ c s) (hf : DebugKept f) (hg : DebugKept g) :
    DebugKept fun s => if c s then f s else g s := by
  intro b s
  by_cases h : c s
  · simpa only [h, (hc b s).mpr h, if_true] using hf b s
  · simpa only [h, mt (hc b s).mp h, if_false] using hg b s

theorem DebugKept.comp {f g : State → State} (hf : DebugKept f) (hg : DebugKept g) : DebugKept fun s => f (g s) := by
  intro b s
  show f (g (s.setDebug b)) = _
  rw [hg b s]
  exact hf b (g s)

theorem DebugKept.id : DebugKept fun s => s := fun _ _ => rfl

theorem rearm_debugKept : DebugKept rearm := .ite (fun _ _ => Iff.rfl) (fun _ _ => rfl) .id

theorem samplePass_debugKept : DebugKept samplePass := by
  refine rearm_debugKept.comp fun b s => ?_
  rw [passBody_debugBlind b s]
  exact logFailure_withDebug _ b

/-! ### The lifecycle -/

theorem startDelivery_debugKept : DebugKept startDelivery :=
  .ite (fun _ _ => Iff.rfl) (fun _ _ => rfl)
    (samplePass_debugKept.comp (g := fun s => s.wait s.cfg.enableSettleMs) fun _ _ => rfl)

/-- An update that always goes on, as an operation. -/
theorem DebugKept.done {u : State → State} (hu : DebugKept u) (v : α) : DebugBlind fun s => Res.done v (u s) :=
  fun b s => congrArg (Res.done v) (hu b s)

theorem enableTransition_debugBlind : DebugBlind enableTransition :=
  setDetCurrent_debugBlind.andThen fun _ => setModeMeas_debugBlind.andThen fun _ =>
    (DebugKept.comp (f := fun s => { s with enabled := true }) (fun _ _ => rfl) startDelivery_debugKept).done ()

theorem disableTransition_debugBlind : DebugBlind disableTransition :=
  (setModePd_debugBlind.after (u := State.cancelAndWait) fun _ _ => rfl).andThen fun _ _ _ => rfl

theorem setDelay_debugKept (ms : Half) : DebugKept (setDelay ms) :=
  DebugKept.comp (f := reschedule) (.ite (fun _ _ => Iff.rfl) (fun _ _ => rfl) .id) fun _ _ => rfl

/-! ### Calibration -/

theorem calPrepare_debugBlind : DebugBlind calPrepare :=
  (DebugBlind.operand _ writeIntsrs_debugBlind).andThen fun _ => setModePd_debugBlind.andThen fun _ =>
    (DebugBlind.operand _ writeOpf_debugBlind).andThen fun _ _ _ => rfl

theorem moreSamples_debugBlind (n : Nat) : DebugBlind (moreSamples n) := by
  induction n with
  | zero => exact .done []
  | succ n ih =>
    exact (readSample_debugBlind.after (u := fun s => s.wait s.cfg.calSampleWaitMs) fun _ _ => rfl).andThen fun _ =>
      ih.andThen fun _ => .done _

theorem takeSamples_debugBlind (n : Nat) : DebugBlind (takeSamples n) := by
  cases n with
  | zero => exact .done []
  | succ n => exact readSample_debugBlind.andThen fun _ => (moreSamples_debugBlind n).andThen fun _ => .done _

theorem calMeasure_debugBlind : DebugBlind calMeasure :=
  calPrepare_debugBlind.andThen fun _ =>
    (DebugBlind.operand (fun s => s.cfg.calN) takeSamples_debugBlind).andThen fun _ _ _ => rfl

theorem reattach_debugBlind (was : Bool) : DebugBlind (reattach was) := by
  cases was
  · exact .done ()
  · exact irqAttach_debugBlind

theorem powerDownIfDisabled_debugBlind : DebugBlind powerDownIfDisabled :=
  .ite (fun _ _ => Iff.rfl) (.done ()) setModePd_debugBlind

theorem DebugBlind.caught {f : State → Res α} (hf : DebugBlind f) (b failed : Bool) (s : State) :
    (f (s.setDebug b)).caught failed = (((f s).caught failed).1, ((f s).caught failed).2.setDebug b) := by
  rw [hf b s, Res.caught_withDebug]

theorem calRestore_setDebug (saved : State) (failed b : Bool) (s : State) :
    calRestore (saved.setDebug b) failed (s.setDebug b) =
      ((calRestore saved failed s).1, (calRestore saved failed s).2.setDebug b) := by
  simp only [calRestore, State.setDebug_opf, State.setDebug_intsrs, State.setDebug_irqAttached, State.setDebug_cfg,
    (writeIntsrs_debugBlind _).caught, (reattach_debugBlind _).caught, (writeOpf_debugBlind _).caught,
    powerDownIfDisabled_debugBlind.caught]

theorem calibrate_setDebug (b : Bool) (s : State) :
    calibrate (s.setDebug b) = ((calibrate s).1, (calibrate s).2.setDebug b) := by
  simp only [calibrate, detachIfAttached_debugKept b s, calMeasure_debugBlind.caught, calRestore_setDebug]

theorem calibrationCommand_debugBlind {mark : State → State} (hm : DebugKept mark) :
    DebugBlind (calibrationCommand mark) := by
  intro b s
  unfold calibrationCommand
  rw [calibrate_setDebug]
  obtain ⟨failed, t⟩ := calibrate s
  cases failed
  · show Res.done (s16Result (mark (t.setDebug b)).calRef) (mark (t.setDebug b)) = _
    rw [hm b t]
    rfl
  · rfl

theorem highFromReference_debugKept : DebugKept highFromReference := fun _ _ => rfl

theorem lowFromReference_debugKept : DebugKept lowFromReference := fun _ _ => rfl

/-- A threshold chosen by the polarity (R219, R220). -/
theorem byPolarity_debugKept {f g : State → State} (hf : DebugKept f) (hg : DebugKept g) :
    DebugKept fun s => if 0 < s.pol.toInt then f s else g s := .ite (fun _ _ => Iff.rfl) hf hg

/-! ### Commands -/

/-- A rule blind to the flag makes a command that ends in states differing only in it. -/
theorem DebugBlind.commandEnds {f : State → Res Word} (hf : DebugBlind f) (b : Bool) (s : State) :
    ∃ t, commandEnds (f s) = .next t ∧ Machine.commandEnds (f (s.setDebug b)) = .next (t.setDebug b) :=
  ⟨_, rfl, by rw [hf b s, Machine.commandEnds, Res.finish_withDebug]⟩

theorem DebugBlind.noResult {f : State → Res Unit} (hf : DebugBlind f) : DebugBlind fun s => (f s).noResult := by
  intro b s
  show (f (s.setDebug b)).noResult = _
  rw [hf b s, Res.noResult_withDebug]

/-- Every command but SETDBG and GETDBG ends alike from two states that differ only in the flag. -/
theorem exec_setDebug {i : Instr} (hset : ∀ v, i ≠ .setdbg v) (hget : i ≠ .getdbg) (b : Bool) (s : State) :
    ∃ t, exec i s = .next t ∧ exec i (s.setDebug b) = .next (t.setDebug b) := by
  cases i with
  | updthr => exact updateThresholds_debugBlind.noResult.commandEnds b s
  | modePd => exact setModePd_debugBlind.noResult.commandEnds b s
  | modeMeas => exact setModeMeas_debugBlind.noResult.commandEnds b s
  | modeFuse => exact setModeFuse_debugBlind.noResult.commandEnds b s
  | setdetPoll => exact setDetPoll_debugBlind.noResult.commandEnds b s
  | setdetInt => exact setDetInt_debugBlind.noResult.commandEnds b s
  | enable =>
    exact (DebugBlind.ite (c := fun s => s.enabled = true) (fun _ _ => Iff.rfl) (.done 0)
      enableTransition_debugBlind.noResult).commandEnds b s
  | disable =>
    exact (DebugBlind.ite (c := fun s => s.enabled = true) (fun _ _ => Iff.rfl)
      disableTransition_debugBlind.noResult (.done 0)).commandEnds b s
  | setdly ms => exact ((setDelay_debugKept ms).done 0).commandEnds b s
  | setdbg v => exact absurd rfl (hset v)
  | getdbg => exact absurd rfl hget
  | cal => exact (calibrationCommand_debugBlind .id).commandEnds b s
  | calpass1 | calpass2 => exact (calibrationCommand_debugBlind fun _ _ => rfl).commandEnds b s
  | calapply1 =>
    exact ((byPolarity_debugKept highFromReference_debugKept lowFromReference_debugKept).done 0).commandEnds b s
  | calapply2 =>
    exact ((byPolarity_debugKept lowFromReference_debugKept highFromReference_debugKept).done 0).commandEnds b s
  | regrd a => exact ((readByte_debugBlind a).andThen fun _ => .done _).commandEnds b s
  | regwr a v => exact (memWrite_debugBlind a [v]).noResult.commandEnds b s
  | chkid =>
    exact ((DebugBlind.operand (fun s => s.cfg.addrId) readByte_debugBlind).andThen fun _ =>
      .operand _ DebugBlind.done).commandEnds b s
  | _ => exact ⟨_, rfl, rfl⟩

/-- What every command does to the flag: it keeps it, and the flag has no effect on it. -/
theorem exec_debugBlind {i : Instr} (hset : ∀ v, i ≠ .setdbg v) (hget : i ≠ .getdbg) (b : Bool) (s : State) :
    ∃ t, exec i s = .next t ∧ t.debug = s.debug ∧ exec i (s.setDebug b) = .next (t.setDebug b) := by
  obtain ⟨t, ht, both⟩ := exec_setDebug hset hget b s
  obtain ⟨u, hu, frame⟩ := exec_changesOnly i s
  obtain rfl : u = t := Host.Outcome.next.inj (hu.symm.trans ht)
  exact ⟨u, ht, frame.same .debug fun ⟨v, hv⟩ => hset v hv, both⟩

/-! ### Events -/

/-- The event is not the word of a SETDBG or a GETDBG. -/
def FreeOfDebug (e : Event) : Prop := ∀ w, e = .command w → decode w ≠ .ok .getdbg ∧ ∀ v, decode w ≠ .ok (.setdbg v)

theorem runCommand_debugBlind {w : Word} (hget : decode w ≠ .ok .getdbg) (hset : ∀ v, decode w ≠ .ok (.setdbg v))
    (b : Bool) (s : State) :
    ∃ t, runCommand w s = .next t ∧ t.debug = s.debug ∧ runCommand w (s.setDebug b) = .next (t.setDebug b) := by
  unfold runCommand
  cases h : decode w with
  | ok i => exact exec_debugBlind (fun v e => hset v (e ▸ h)) (fun e => hget (e ▸ h)) b s
  | error _ => exact ⟨_, rfl, rfl, rfl⟩

/-- Every event of a live block but DETACH keeps the flag, and the flag has no effect on it. -/
theorem takeEvent_debugBlind {e : Event} (he : e ≠ .detach) (free : FreeOfDebug e) (b : Bool) (s : State) :
    ∃ t, takeEvent e s = .next t ∧ t.debug = s.debug ∧ takeEvent e (s.setDebug b) = .next (t.setDebug b) := by
  cases e with
  | command w => exact runCommand_debugBlind (free w rfl).1 (free w rfl).2 b s
  | workerRun =>
    have kept : DebugKept fun s => if s.pending then workerRun s else s :=
      .ite (fun _ _ => Iff.rfl) (samplePass_debugKept.comp fun _ _ => rfl) .id
    refine ⟨_, rfl, ?_, congrArg _ (kept b s)⟩
    split
    · exact (workerRun_changesOnly s).same .debug (by simp [passElements])
    · rfl
  | irqEdge =>
    have kept : DebugKept fun s => if s.irqAttached then irqEdge s else s :=
      .ite (fun _ _ => Iff.rfl) (fun _ _ => rfl) .id
    refine ⟨_, rfl, ?_, congrArg _ (kept b s)⟩
    split
    · exact (irqEdge_changesOnly s).same .debug (by simp [passElements])
    · rfl
  | init => exact ⟨s, rfl, rfl, rfl⟩
  | detach => exact absurd rfl he

/-- A DETACH loses the flag with all state (R275). -/
theorem detachEvent_setDebug (b : Bool) (s : State) : detachEvent (s.setDebug b) = detachEvent s := by
  have released : detachIfAttached (s.setDebug b).cancelAndWait = (detachIfAttached s.cancelAndWait).setDebug b :=
    detachIfAttached_debugKept b s.cancelAndWait
  unfold detachEvent
  rw [released]
  rfl

theorem initEvent_setDebug (b : Bool) (s : State) : initEvent (s.setDebug b) = initEvent s := rfl

/-- INIT leaves the flag at its reset value, whether or not it raises (R272). -/
theorem initEvent_debug (s : State) : (initEvent s).debug = false := by
  have frame := initSequence_changesOnly (s := initDefaults s) rfl
  have cleared : (initSequence (initDefaults s)).state.debug = false := frame.same .debug (by simp [initElements])
  unfold initEvent
  cases e : initSequence (initDefaults s) with
  | done _ t => rwa [e] at cleared
  | raised err t => rwa [e] at cleared

/-! ### Every step -/

/-- A step of a live block, by its event. -/
theorem step_debugBlind {s : State} (alive : s.alive = true) (he : s.env.event ≠ .detach)
    (free : FreeOfDebug s.env.event) (b : Bool) :
    ∃ t, step s = .next t ∧ t.debug = s.debug ∧ step (s.setDebug b) = .next (t.setDebug b) := by
  rw [step_alive alive, step_alive (s := s.setDebug b) alive]
  exact takeEvent_debugBlind he free b s.dropEvent

/-- A step of a block that is not alive is the same whatever the flag was: only INIT goes on, and it clears the flag. -/
theorem step_dead_setDebug {s : State} (h : s.alive = false) (b : Bool) : step (s.setDebug b) = step s := by
  rw [step_dead h, step_dead (s := s.setDebug b) h]
  show offerToDead s.env.event (s.dropEvent.setDebug b) = offerToDead s.env.event s.dropEvent
  cases s.env.event with
  | init => exact congrArg Host.Outcome.next (initEvent_setDebug b s.dropEvent)
  | command w | workerRun | irqEdge | detach => rfl

theorem step_detach_setDebug {s : State} (alive : s.alive = true) (e : s.env.event = .detach) (b : Bool) :
    step (s.setDebug b) = step s := by
  rw [step_detach alive e, step_detach (s := s.setDebug b) alive e]
  exact congrArg Host.Outcome.next (detachEvent_setDebug b s.dropEvent)

/-- Settles O51: every command by `exec_debugBlind`, and every step by the life of the block and its event. -/
theorem debugFlagHasNoEffect : Obligations.DebugFlagHasNoEffect := by
  refine ⟨fun i s b hset hget => exec_debugBlind hset hget b s, fun s b free => ?_⟩
  rcases Bool.eq_false_or_eq_true s.alive with alive | dead
  · by_cases he : s.env.event = .detach
    · have same : step (s.setDebug b) = step s := step_detach_setDebug alive he b
      refine ⟨fun t hst => ⟨fun life _ => ?_, fun dead => ?_, fun _ => same.trans hst⟩, fun _ => same.trans,
        fun _ => same.trans⟩
      · obtain rfl := Host.Outcome.next.inj ((step_detach alive he).symm.trans hst)
        exact absurd life (by simp)
      · exact absurd (alive.symm.trans dead) (by decide)
    · obtain ⟨t, ht, kept, both⟩ := step_debugBlind alive he free b
      obtain ⟨life, -⟩ := shadowsFollowAcknowledgedWrites s t alive ht
      have still := life.mpr he
      rw [ht]
      refine ⟨fun t' e => ?_, nofun, nofun⟩
      obtain rfl := Host.Outcome.next.inj e
      exact ⟨fun _ _ => ⟨kept, both⟩, by simp [alive], by simp [alive, still]⟩
  · have same : step (s.setDebug b) = step s := step_dead_setDebug dead b
    refine ⟨fun t hst => ⟨fun _ alive => ?_, fun _ => ?_, fun _ => same.trans hst⟩, fun _ => same.trans,
      fun _ => same.trans⟩
    · exact absurd (alive.symm.trans dead) (by decide)
    · obtain ⟨-, rfl⟩ := step_dead_next dead hst
      exact initEvent_debug s.dropEvent

end Sys2Proof.Machine
end

section
/-! SUPPORT. The register accesses among the events an operation adds to the trace (R52): every operation adds only
accesses that its rules name, and so does every step. -/

namespace Sys2Proof.Machine

theorem accesses_append (xs ys : List Emitted) : accesses (xs ++ ys) = accesses xs ++ accesses ys := by
  induction xs with
  | nil => rfl
  | cons x xs ih => cases x <;> simp [accesses, ih]

@[simp] theorem accesses_releaseEvents (s : State) : accesses (releaseEvents s) = [] := by
  unfold releaseEvents
  split <;> rfl

/-- From `s` to `t` the configuration is kept and the trace only grows, by events whose accesses `W` allows. -/
structure AccessesOnly (W : Config → Access → Prop) (s t : State) : Prop where
  cfg : t.cfg = s.cfg
  trace : ∃ new, t.trace = s.trace ++ new ∧ ∀ x ∈ accesses new, W s.cfg x

variable {W : Config → Access → Prop} {s t : State}

/-- An operation that adds nothing to the trace. -/
theorem AccessesOnly.silent (cfg : t.cfg = s.cfg := by rfl) (trace : t.trace = s.trace := by rfl) :
    AccessesOnly W s t := ⟨cfg, [], by simp [trace], nofun⟩

/-- An operation that adds one event to the trace. -/
theorem AccessesOnly.one (x : Emitted) (hx : ∀ y ∈ accesses [x], W s.cfg y) (cfg : t.cfg = s.cfg := by rfl)
    (trace : t.trace = s.trace ++ [x] := by rfl) : AccessesOnly W s t := ⟨cfg, [x], trace, hx⟩

theorem AccessesOnly.trans {u : State} (h : AccessesOnly W s t) (h' : AccessesOnly W t u) : AccessesOnly W s u := by
  obtain ⟨cfg, new, trace, allowed⟩ := h
  obtain ⟨cfg', new', trace', allowed'⟩ := h'
  refine ⟨cfg'.trans cfg, new ++ new', by rw [trace', trace, List.append_assoc], fun x hx => ?_⟩
  rw [accesses_append] at hx
  exact (List.mem_append.mp hx).elim (allowed x) fun hx => cfg ▸ allowed' x hx

variable (W) in
theorem accessesOnly_kept : KeptByCommands W (AccessesOnly W) where
  cfg := AccessesOnly.cfg
  refl _ := .silent
  trans := .trans
  env _ _ := .silent
  quiet _ x _ hx := .one x hx
  write _ a p hw := .one (.busWrite a p true) (by simpa [accesses] using hw)
  attach _ _ := .silent
  detach _ := .silent
  zone _ _ v := .one (.publish v) nofun
  arm _ _ := .silent
  ends _ _ _ := .silent
  lifecycle _ _ := .silent
  delay _ _ := .silent
  debug _ _ := .silent
  high _ _ := .silent
  low _ _ := .silent
  polarity _ _ := .silent
  reference _ _ := .silent
  highDone _ := .silent
  lowDone _ := .silent

/-! ### The ends of the block's life -/

/-- INIT reaches the soft reset, the identity and OPF, whether or not it raises (R272). -/
theorem initSequence_accessesOnly (hw : Allows W fun c => eventAccess c .init) (s : State) :
    AccessesOnly W s (initSequence s).state := by
  have kept := accessesOnly_kept W
  have checked : ∀ u, AccessesOnly W u (checkIdentity u).state := by
    refine fun u => kept.andThen (kept.readByte _ u (hw _ _ (by simp [eventAccess]))) fun b v _ => ?_
    split <;> exact .silent
  have reseeded : ∀ u, AccessesOnly W u (reseedShadows u) := fun _ => .silent
  exact kept.andThen (kept.memWrite _ _ s (hw _ _ (by simp [eventAccess]))) fun _ t _ =>
    kept.andThen ((reseeded t).trans (checked _)) fun _ u _ =>
      kept.andThen (kept.setModePd hw.right u) fun _ v _ => .silent

theorem initEvent_accessesOnly (hw : Allows W fun c => eventAccess c .init) (s : State) :
    AccessesOnly W s (initEvent s) := by
  have defaults : AccessesOnly W s (initDefaults s) := .silent
  have sequence := defaults.trans (initSequence_accessesOnly hw _)
  unfold initEvent
  cases e : initSequence (initDefaults s) with
  | done _ t => rwa [e] at sequence
  | raised err t =>
    rw [e] at sequence
    exact sequence.trans .silent

/-- DETACH drains the slot and releases the line, and reaches no register (R275). -/
theorem detachEvent_accessesOnly (s : State) : AccessesOnly W s (detachEvent s) :=
  ⟨detachEvent_cfg s, _, detachEvent_trace s, by simp [accesses]⟩

/-! ### Every step -/

/-- Every step, of a block that is alive or not, adds only accesses of the event at its boundary. -/
theorem step_accessesOnly (hw : Allows W fun c => eventAccess c s.env.event) (hst : step s = .next t) :
    AccessesOnly W s t := by
  have dropped : AccessesOnly W s s.dropEvent := .silent
  rcases Bool.eq_false_or_eq_true s.alive with alive | dead
  · by_cases he : s.env.event = .detach
    · obtain rfl := Host.Outcome.next.inj ((step_detach alive he).symm.trans hst)
      exact dropped.trans (detachEvent_accessesOnly _)
    · obtain ⟨t', ht', only⟩ := (accessesOnly_kept W).step alive he hw
      obtain rfl := Host.Outcome.next.inj (ht'.symm.trans hst)
      exact only
  · obtain ⟨he, rfl⟩ := step_dead_next dead hst
    rw [he] at hw
    exact dropped.trans (initEvent_accessesOnly hw _)

/-- Settles O52: a command by what every command keeps, a step by the event at its boundary, each with its own list of
accesses as the ones allowed. -/
theorem commandsStayWithinTheirRegisters : Obligations.CommandsStayWithinTheirRegisters := by
  refine ⟨fun i s => ?_, fun s t hst => ?_⟩
  · obtain ⟨t, ht, only⟩ := (accessesOnly_kept fun c x => x ∈ commandAccess c i).exec i s fun _ _ hx => hx
    obtain ⟨new, trace, allowed⟩ := only.trace
    exact ⟨t, new, ht, trace, allowed⟩
  · exact (step_accessesOnly (W := fun c x => x ∈ eventAccess c s.env.event) (fun _ _ hx => hx) hst).trace

end Sys2Proof.Machine
end

section
/-! SUPPORT. The decoder and the encoder (R71 to R80): decoding and encoding are inverses of each other, and the words that
a row of the opcode map matches are the words of the row's commands. -/

namespace Sys2Proof

/-! ### A word that decodes is the word of its command -/

/-- The word of the command in a decoder's answer has the three fields that were decoded. -/
def Encodes (op a : Byte) (imm : Half) (answer : Except Reject Instr) : Prop :=
  ∀ i, answer = .ok i → encode i = packWord op a imm

/-- A byte with no bit above bit 0 is SETDBG's Boolean (R73). -/
theorem boolByte_eq : ∀ {a : Byte}, a &&& 0xFE = 0 → a = if a.getLsbD 0 then 0x01 else 0x00 := by decide

theorem encode_dec8_bytes (imm : Half) : encode (.dec8 (hiByte imm) (loByte imm)) = packWord 0x02 0x00 imm := by
  rw [encode, pair_bytes]

theorem encode_dec10_bytes (imm : Half) : encode (.dec10 (hiByte imm) (loByte imm)) = packWord 0x02 0x01 imm := by
  rw [encode, pair_bytes]

section
variable {op a c : Byte} {imm : Half} {i j : Instr}

theorem Encodes.ok (h : encode i = packWord op a imm) : Encodes op a imm (.ok i) := by
  rintro _ ⟨⟩
  exact h

theorem Encodes.error (e : Reject) : Encodes op a imm (.error e) := nofun

theorem Encodes.ite {p : Prop} [Decidable p] {x y : Except Reject Instr} (hx : p → Encodes op a imm x)
    (hy : Encodes op a imm y) : Encodes op a imm (if p then x else y) := by
  split
  case isTrue hp => exact hx hp
  case isFalse => exact hy

/-! Each format at an opcode `c`: what it accepts encodes, if the words of its commands are those of `c` with the fields
that the format prescribes. -/

theorem Encodes.formatN (h : encode i = packWord c 0 0) (hop : op = c) : Encodes op a imm (formatN op a imm i) :=
  .ite (fun ⟨ha, hi⟩ => .ok (by rw [h, hop, ha, hi])) (.error _)

theorem Encodes.formatI (h : encode i = packWord c 0 imm) (hop : op = c) : Encodes op a imm (formatI op a i) :=
  .ite (fun ha => .ok (by rw [h, hop, ha])) (.error _)

theorem Encodes.formatISelect (h0 : encode i = packWord c 0 imm) (h1 : encode j = packWord c 1 imm) (hop : op = c) :
    Encodes op a imm (formatISelect op a i j) :=
  .ite (fun ha => .ok (by rw [h0, hop, ha])) (.ite (fun ha => .ok (by rw [h1, hop, ha])) (.error _))

theorem Encodes.formatNSelect {rows : List (Byte × Instr)} (h : ∀ r ∈ rows, encode r.2 = packWord c r.1 0)
    (hop : op = c) : Encodes op a imm (formatNSelect op a imm rows) := by
  unfold Sys2Proof.formatNSelect
  split
  case h_1 => exact .error _
  case h_2 r found =>
    have selected : r.1 = a := by simpa using List.find?_some found
    have word := h r (List.mem_of_find?_eq_some found)
    exact .ite (fun hi => .ok (by rw [word, selected, hop, hi])) (.error _)

theorem Encodes.formatABool (hop : op = 0x27) : Encodes op a imm (formatABool op a imm) :=
  .ite (fun ⟨ha, hi⟩ => .ok (by rw [encode, ← boolByte_eq ha, hop, hi])) (.error _)

theorem Encodes.formatAAddr (hop : op = 0x50) : Encodes op a imm (formatAAddr op a imm) :=
  .ite (fun hi => .ok (by rw [encode, hop, hi])) (.error _)

theorem Encodes.formatAI (hop : op = 0x51) : Encodes op a imm (formatAI op a imm) :=
  .ite (fun hi => .ok (by rw [encode, ← hi, pair_bytes, hop])) (.error _)

/-- The opcode map, opcode by opcode (R78). -/
theorem decodeFields_encodes (op a : Byte) (imm : Half) : Encodes op a imm (decodeFields op a imm) := by
  unfold decodeFields
  exact
    .ite (.formatISelect rfl rfl) <| .ite (.formatISelect (encode_dec8_bytes imm) (encode_dec10_bytes imm)) <|
    .ite (.formatI rfl) <| .ite (.formatN rfl) <| .ite (.formatN rfl) <|
    .ite (.formatNSelect (by decide)) <| .ite (.formatNSelect (by decide)) <|
    .ite (.formatN rfl) <| .ite (.formatN rfl) <| .ite (.formatI rfl) <| .ite (.formatN rfl) <|
    .ite (.formatN rfl) <| .ite .formatABool <| .ite (.formatN rfl) <|
    .ite (.formatI rfl) <| .ite (.formatN rfl) <| .ite (.formatI rfl) <| .ite (.formatN rfl) <|
    .ite (.formatI rfl) <| .ite (.formatN rfl) <|
    .ite (.formatN rfl) <| .ite (.formatNSelect (by decide)) <| .ite (.formatN rfl) <| .ite (.formatN rfl) <|
    .ite (.formatNSelect (by decide)) <|
    .ite .formatAAddr <| .ite .formatAI <| .ite (.formatN rfl) <| .ite (.formatNSelect (by decide)) <|
    .error _

end

theorem encode_of_decode {w : Word} {i : Instr} (h : decode w = .ok i) : encode i = w :=
  (decodeFields_encodes _ _ _ i h).trans (pack_fields w)

/-! ### The word of a command decodes to it -/

theorem decode_encode (i : Instr) : decode (encode i) = .ok i := by
  cases i with
  | dec8 hi lo => simp [encode, decodeFields, formatISelect]
  | dec10 hi lo => simp [encode, decodeFields, formatISelect]
  | setdbg b => cases b <;> rfl
  | regwr addr value => simp [encode, decodeFields, formatAI]
  | _ => exact decode_pack _ _ _

theorem encode_injective : Function.Injective encode := fun i j h =>
  Except.ok.inj ((decode_encode i).symm.trans (h ▸ decode_encode j))

/-- Settles O1: each command's word decodes to it, and each opcode's format accepts only the words of its commands. -/
theorem decodeAndEncodeAgree : Obligations.DecodeAndEncodeAgree :=
  ⟨decode_encode, fun _ _ => encode_of_decode⟩

/-- Settles O4, by evaluating the decoder on the seven words. -/
theorem spelledOutWordsDecode : Obligations.SpelledOutWordsDecode := ⟨rfl, rfl, rfl, rfl, rfl, rfl, rfl⟩

/-! ### The words of a row -/

/-- The converse of `hits_pack`: under the mask of a row that a word hits, each field is the row's. -/
theorem fields_of_hits {r : OpcodeRow} {w : Word} (h : r.hits w = true) :
    opField w &&& opField r.mask = opField r.pattern ∧ aField w &&& aField r.mask = aField r.pattern ∧
      immField w &&& immField r.mask = immField r.pattern := by
  have masked : w &&& r.mask = r.pattern := beq_iff_eq.mp h
  simp only [← masked, opField, aField, immField, BitVec.extractLsb'_and, and_self]

/-! A field that the mask covers is the row's. -/

section
variable {r : OpcodeRow} {w : Word}

theorem opField_of_hits (h : r.hits w = true) (covered : opField r.mask = BitVec.allOnes 8) :
    opField w = opField r.pattern := by
  have masked := (fields_of_hits h).1
  rwa [covered, BitVec.and_allOnes] at masked

theorem aField_of_hits (h : r.hits w = true) (covered : aField r.mask = BitVec.allOnes 8) :
    aField w = aField r.pattern := by
  have masked := (fields_of_hits h).2.1
  rwa [covered, BitVec.and_allOnes] at masked

theorem immField_of_hits (h : r.hits w = true) (covered : immField r.mask = BitVec.allOnes 16) :
    immField w = immField r.pattern := by
  have masked := (fields_of_hits h).2.2
  rwa [covered, BitVec.and_allOnes] at masked

end

/-! The words of a row, by what its mask leaves open: nothing, `IMM`, SETDBG's bit, REGRD's address, REGWR's two bytes. -/

theorem word_of_hits_full {p w : Word} (h : (⟨p, 0xFFFFFFFF⟩ : OpcodeRow).hits w = true) : p = w := by
  have masked : w &&& BitVec.allOnes 32 = p := beq_iff_eq.mp h
  rw [← masked, BitVec.and_allOnes]

theorem word_of_hits_imm {p w : Word} {op a : Byte} (h : (⟨p, 0xFFFF0000⟩ : OpcodeRow).hits w = true)
    (hp : opField p = op ∧ aField p = a := by decide) : packWord op a (immField w) = w := by
  have opCovered : opField 0xFFFF0000 = BitVec.allOnes 8 := by decide
  have aCovered : aField 0xFFFF0000 = BitVec.allOnes 8 := by decide
  have hop : opField w = op := (opField_of_hits h opCovered).trans hp.1
  have ha : aField w = a := (aField_of_hits h aCovered).trans hp.2
  rw [← hop, ← ha, pack_fields]

theorem word_of_hits_setdbg {w : Word} (h : (⟨0x27000000, 0xFFFEFFFF⟩ : OpcodeRow).hits w = true) :
    encode (.setdbg ((aField w).getLsbD 0)) = w := by
  have hop : opField w = 0x27 := opField_of_hits h (by decide)
  have ha : aField w &&& 0xFE = 0 := (fields_of_hits h).2.1
  have hi : immField w = 0 := immField_of_hits h (by decide)
  rw [encode, ← boolByte_eq ha, ← hop, ← hi, pack_fields]

theorem word_of_hits_regrd {w : Word} (h : (⟨0x50000000, 0xFF00FFFF⟩ : OpcodeRow).hits w = true) :
    encode (.regrd (aField w)) = w := by
  have hop : opField w = 0x50 := opField_of_hits h (by decide)
  have hi : immField w = 0 := immField_of_hits h (by decide)
  rw [encode, ← hop, ← hi, pack_fields]

theorem word_of_hits_regwr {w : Word} (h : (⟨0x51000000, 0xFF00FF00⟩ : OpcodeRow).hits w = true) :
    encode (.regwr (aField w) (loByte (immField w))) = w := by
  have hop : opField w = 0x51 := opField_of_hits h (by decide)
  have hi : hiByte (immField w) = 0 := by
    have high : hiByte (immField w &&& 0xFF00) = 0 := congrArg hiByte (fields_of_hits h).2.2
    have covered : hiByte 0xFF00 = BitVec.allOnes 8 := by decide
    rwa [hiByte, BitVec.extractLsb'_and, ← hiByte, ← hiByte, covered, BitVec.and_allOnes] at high
  rw [encode, ← hi, pair_bytes, ← hop, pack_fields]

/-- A word that the row at place `k` matches is the word of a command of that row. -/
theorem encode_of_hits {k : Nat} {r : OpcodeRow} {w : Word} (hr : opcodeMap[k]? = some r) (h : r.hits w = true) :
    ∃ i, rowIndex i = k ∧ encode i = w :=
  match k, hr with
  | 0, rfl => ⟨.enc8 (immField w), rfl, word_of_hits_imm h⟩
  | 1, rfl => ⟨.enc10 (immField w), rfl, word_of_hits_imm h⟩
  | 2, rfl => ⟨.dec8 _ _, rfl, (encode_dec8_bytes _).trans (word_of_hits_imm h)⟩
  | 3, rfl => ⟨.dec10 _ _, rfl, (encode_dec10_bytes _).trans (word_of_hits_imm h)⟩
  | 4, rfl => ⟨.cls (immField w), rfl, word_of_hits_imm h⟩
  | 5, rfl => ⟨.updthr, rfl, word_of_hits_full h⟩
  | 6, rfl => ⟨.getzone, rfl, word_of_hits_full h⟩
  | 7, rfl => ⟨.modePd, rfl, word_of_hits_full h⟩
  | 8, rfl => ⟨.modeMeas, rfl, word_of_hits_full h⟩
  | 9, rfl => ⟨.modeFuse, rfl, word_of_hits_full h⟩
  | 10, rfl => ⟨.setdetPoll, rfl, word_of_hits_full h⟩
  | 11, rfl => ⟨.setdetInt, rfl, word_of_hits_full h⟩
  | 12, rfl => ⟨.enable, rfl, word_of_hits_full h⟩
  | 13, rfl => ⟨.disable, rfl, word_of_hits_full h⟩
  | 14, rfl => ⟨.setdly (immField w), rfl, word_of_hits_imm h⟩
  | 15, rfl => ⟨.geten, rfl, word_of_hits_full h⟩
  | 16, rfl => ⟨.getdly, rfl, word_of_hits_full h⟩
  | 17, rfl => ⟨_, rfl, word_of_hits_setdbg h⟩
  | 18, rfl => ⟨.getdbg, rfl, word_of_hits_full h⟩
  | 19, rfl => ⟨.setth (immField w), rfl, word_of_hits_imm h⟩
  | 20, rfl => ⟨.getth, rfl, word_of_hits_full h⟩
  | 21, rfl => ⟨.settl (immField w), rfl, word_of_hits_imm h⟩
  | 22, rfl => ⟨.gettl, rfl, word_of_hits_full h⟩
  | 23, rfl => ⟨.setpol (immField w), rfl, word_of_hits_imm h⟩
  | 24, rfl => ⟨.getpol, rfl, word_of_hits_full h⟩
  | 25, rfl => ⟨.cal, rfl, word_of_hits_full h⟩
  | 26, rfl => ⟨.calpass1, rfl, word_of_hits_full h⟩
  | 27, rfl => ⟨.calpass2, rfl, word_of_hits_full h⟩
  | 28, rfl => ⟨.getref, rfl, word_of_hits_full h⟩
  | 29, rfl => ⟨.getcalst, rfl, word_of_hits_full h⟩
  | 30, rfl => ⟨.calapply1, rfl, word_of_hits_full h⟩
  | 31, rfl => ⟨.calapply2, rfl, word_of_hits_full h⟩
  | 32, rfl => ⟨_, rfl, word_of_hits_regrd h⟩
  | 33, rfl => ⟨_, rfl, word_of_hits_regwr h⟩
  | 34, rfl => ⟨.chkid, rfl, word_of_hits_full h⟩
  | 35, rfl => ⟨.getshadowOpf, rfl, word_of_hits_full h⟩
  | 36, rfl => ⟨.getshadowIntsrs, rfl, word_of_hits_full h⟩

/-- The word of every command hits the command's own row: the family of PerInstr, for all commands. -/
theorem encode_hits_row : ∀ i : Instr, Laws.EncodeMatchesRow.Statement i
  | .enc8 value => Laws.EncodeMatchesRow.enc8 value
  | .enc10 value => Laws.EncodeMatchesRow.enc10 value
  | .dec8 hi lo => Laws.EncodeMatchesRow.dec8 hi lo
  | .dec10 hi lo => Laws.EncodeMatchesRow.dec10 hi lo
  | .cls raw => Laws.EncodeMatchesRow.cls raw
  | .updthr => Laws.EncodeMatchesRow.updthr
  | .getzone => Laws.EncodeMatchesRow.getzone
  | .modePd => Laws.EncodeMatchesRow.modePd
  | .modeMeas => Laws.EncodeMatchesRow.modeMeas
  | .modeFuse => Laws.EncodeMatchesRow.modeFuse
  | .setdetPoll => Laws.EncodeMatchesRow.setdetPoll
  | .setdetInt => Laws.EncodeMatchesRow.setdetInt
  | .enable => Laws.EncodeMatchesRow.enable
  | .disable => Laws.EncodeMatchesRow.disable
  | .setdly ms => Laws.EncodeMatchesRow.setdly ms
  | .geten => Laws.EncodeMatchesRow.geten
  | .getdly => Laws.EncodeMatchesRow.getdly
  | .setdbg b => Laws.EncodeMatchesRow.setdbg b
  | .getdbg => Laws.EncodeMatchesRow.getdbg
  | .setth v => Laws.EncodeMatchesRow.setth v
  | .getth => Laws.EncodeMatchesRow.getth
  | .settl v => Laws.EncodeMatchesRow.settl v
  | .gettl => Laws.EncodeMatchesRow.gettl
  | .setpol v => Laws.EncodeMatchesRow.setpol v
  | .getpol => Laws.EncodeMatchesRow.getpol
  | .cal => Laws.EncodeMatchesRow.cal
  | .calpass1 => Laws.EncodeMatchesRow.calpass1
  | .calpass2 => Laws.EncodeMatchesRow.calpass2
  | .getref => Laws.EncodeMatchesRow.getref
  | .getcalst => Laws.EncodeMatchesRow.getcalst
  | .calapply1 => Laws.EncodeMatchesRow.calapply1
  | .calapply2 => Laws.EncodeMatchesRow.calapply2
  | .regrd addr => Laws.EncodeMatchesRow.regrd addr
  | .regwr addr value => Laws.EncodeMatchesRow.regwr addr value
  | .chkid => Laws.EncodeMatchesRow.chkid
  | .getshadowOpf => Laws.EncodeMatchesRow.getshadowOpf
  | .getshadowIntsrs => Laws.EncodeMatchesRow.getshadowIntsrs

theorem row_of_decode {w : Word} {i : Instr} (h : decode w = .ok i) :
    ∃ r, opcodeMap[rowIndex i]? = some r ∧ r.hits w = true :=
  encode_of_decode h ▸ encode_hits_row i

/-- Settles O2: a word that decodes is the word of its command and hits that command's row, and a word that some row hits
is the word of a command. -/
theorem decodeAcceptsExactlyTheMap : Obligations.DecodeAcceptsExactlyTheMap := by
  refine ⟨fun w => ⟨?_, ?_⟩, fun _ _ => row_of_decode⟩
  · rintro ⟨i, hi⟩
    obtain ⟨r, hr, hit⟩ := row_of_decode hi
    exact ⟨r, List.mem_of_getElem? hr, hit⟩
  · rintro ⟨r, hr, hit⟩
    obtain ⟨k, hk⟩ := List.mem_iff_getElem?.mp hr
    obtain ⟨i, -, rfl⟩ := encode_of_hits hk hit
    exact ⟨i, decode_encode i⟩

/-- Settles O3: a word that two rows hit is the word of a command of each, and it decodes to only one command. -/
theorem opcodeRowsNeverOverlap : Obligations.OpcodeRowsNeverOverlap := by
  intro w j k r q hj hk hr hq
  obtain ⟨i, rfl, rfl⟩ := encode_of_hits hj hr
  obtain ⟨i', rfl, same⟩ := encode_of_hits hk hq
  rw [encode_injective same]

end Sys2Proof
end

section
/-! SUPPORT. A step at a presented command word (R70, R78). -/

namespace Sys2Proof.Machine

theorem runCommand_of_decode {w : Word} {i : Instr} (h : decode w = .ok i) (s : State) : runCommand w s = exec i s := by
  rw [runCommand, h]

theorem step_command {s : State} {w : Word} (alive : s.alive = true) (e : s.env.event = .command w) :
    step s = runCommand w s.dropEvent := by
  rw [step_alive alive, e]
  rfl

/-- The event at the head of the list is the one at this boundary, and only it is taken from the list. -/
theorem Env.event_head {e : Env} {x : Event} {rest : List Event} (h : e.events = x :: rest) :
    e.event = x ∧ e.popEvent = { e with events := rest } := by
  simp only [Env.event, Env.popEvent, h, and_self]

theorem State.withFetchWord_word (s : State) (w : Word) : s.withFetchWord 32 w.toNat = s.presentCommand w := by
  rw [State.withFetchWord, Nat.mod_eq_of_lt w.isLt, BitVec.ofNat_toNat, BitVec.setWidth_eq]

/-- Settles O6, by the event at the boundary; a word presented from outside is that event. -/
theorem stepRunsTheDecodedCommand : Obligations.StepRunsTheDecodedCommand := by
  refine ⟨fun s w i alive e hd => ?_, fun s w rest => Env.event_head, fun s w i hd => ?_⟩
  · rw [step_command alive e, runCommand_of_decode hd]
    rfl
  · rw [State.withFetchWord_word, step_command (w := w) rfl rfl, runCommand_of_decode hd]
    rfl

end Sys2Proof.Machine
end

section
/-! SUPPORT. The assembler by mnemonic (R81, R82): the mnemonics as a table, in which each stands once, so that what a line
assembles to is read off its row. -/

namespace Sys2Proof.Machine

/-! ### The mnemonics as a table -/

/-- The answer of the row of a mnemonic, and none where no row has it. -/
def dispatch (m : List Char) : List (String × Option Instr) → Option Instr
  | [] => none
  | (k, r) :: rows => if m = k.toList then r else dispatch m rows

theorem dispatch_of_mem {rows : List (String × Option Instr)} {k : String} {r : Option Instr}
    (once : (rows.map Prod.fst).Nodup) (h : (k, r) ∈ rows) : dispatch k.toList rows = r := by
  induction rows with
  | nil => cases h
  | cons row rows ih =>
    obtain ⟨k', r'⟩ := row
    obtain ⟨fresh, once⟩ := List.nodup_cons.mp once
    obtain e | later := List.mem_cons.mp h
    · obtain ⟨rfl, rfl⟩ := Prod.mk.inj e
      exact if_pos rfl
    · have other : k.toList ≠ k'.toList := fun e =>
        fresh (List.mem_map.mpr ⟨(k, r), later, String.toList_inj.mp e⟩)
      exact (if_neg other).trans (ih once later)

theorem dispatch_eq_none {m : List Char} {rows : List (String × Option Instr)}
    (h : ∀ k ∈ rows.map Prod.fst, m ≠ k.toList) : dispatch m rows = none := by
  induction rows with
  | nil => rfl
  | cons row rows ih =>
    obtain ⟨other, later⟩ := List.forall_mem_cons.mp h
    exact (if_neg other).trans (ih later)

/-- The core instructions, in the order of R78's table. -/
def coreRows (ops : List AsmOperand) : List (String × Option Instr) :=
  [("ENC.8", asmS16 ops .enc8), ("ENC.10", asmS16 ops .enc10), ("DEC.8", asmU8U8 ops .dec8),
   ("DEC.10", asmU8U8 ops .dec10), ("CLS", asmS16 ops .cls), ("UPDTHR", asmNone ops .updthr),
   ("GETZONE", asmNone ops .getzone), ("MODE.PD", asmNone ops .modePd), ("MODE.MEAS", asmNone ops .modeMeas),
   ("MODE.FUSE", asmNone ops .modeFuse), ("SETDET.POLL", asmNone ops .setdetPoll),
   ("SETDET.INT", asmNone ops .setdetInt), ("ENABLE", asmNone ops .enable), ("DISABLE", asmNone ops .disable),
   ("SETDLY", asmU16 ops .setdly), ("GETEN", asmNone ops .geten), ("GETDLY", asmNone ops .getdly),
   ("SETDBG", asmBit ops .setdbg), ("GETDBG", asmNone ops .getdbg), ("SETTH", asmS16 ops .setth),
   ("GETTH", asmNone ops .getth), ("SETTL", asmS16 ops .settl), ("GETTL", asmNone ops .gettl),
   ("SETPOL", asmS16 ops .setpol), ("GETPOL", asmNone ops .getpol), ("CAL", asmNone ops .cal),
   ("CALPASS.1", asmNone ops .calpass1), ("CALPASS.2", asmNone ops .calpass2), ("GETREF", asmNone ops .getref),
   ("GETCALST", asmNone ops .getcalst), ("CALAPPLY.1", asmNone ops .calapply1),
   ("CALAPPLY.2", asmNone ops .calapply2), ("REGRD", asmU8 ops .regrd), ("REGWR", asmU8U8 ops .regwr),
   ("CHKID", asmNone ops .chkid), ("GETSHADOW.OPF", asmNone ops .getshadowOpf),
   ("GETSHADOW.INTSRS", asmNone ops .getshadowIntsrs)]

/-- The pseudo-instructions (R82). -/
def pseudoRows (ops : List AsmOperand) : List (String × Option Instr) :=
  [("SETEN", asmBit ops fun b => if b then .enable else .disable),
   ("SETMODE", asmName ops [("PowerDown".toList, .modePd), ("Measurement".toList, .modeMeas),
     ("FuseRomAccess".toList, .modeFuse)]),
   ("SETDET", asmName ops [("polling".toList, .setdetPoll), ("interrupt".toList, .setdetInt)]),
   ("CALPASS", asmChoice ops [(1, .calpass1), (2, .calpass2)])]

theorem assembleCore_eq (m : List Char) (ops : List AsmOperand) : assembleCore m ops = dispatch m (coreRows ops) := rfl

theorem assemblePseudo_eq (m : List Char) (ops : List AsmOperand) :
    assemblePseudo m ops = dispatch m (pseudoRows ops) := rfl

/-- The core mnemonics, which do not depend on the operands. -/
def coreMnemonics : List String := (coreRows []).map Prod.fst

/-- The pseudo-mnemonics, which do not depend on the operands. -/
def pseudoMnemonics : List String := (pseudoRows []).map Prod.fst

theorem mnemonics_nodup : (coreMnemonics ++ pseudoMnemonics).Nodup := by decide

/-! ### A line by its row -/

section
variable {m : List Char} {ops : List AsmOperand}

theorem assembleCore_of_row {n : Nat} {k : String} {r : Option Instr} (h : (coreRows ops)[n]? = some (k, r)) :
    assembleCore k.toList ops = r :=
  (assembleCore_eq _ ops).trans (dispatch_of_mem (List.nodup_append.mp mnemonics_nodup).1 (List.mem_of_getElem? h))

theorem assemblePseudo_of_row {n : Nat} {k : String} {r : Option Instr} (h : (pseudoRows ops)[n]? = some (k, r)) :
    assemblePseudo k.toList ops = r :=
  (assemblePseudo_eq _ ops).trans (dispatch_of_mem (List.nodup_append.mp mnemonics_nodup).2.1 (List.mem_of_getElem? h))

theorem assembleCore_unknown (h : ∀ k ∈ coreMnemonics, m ≠ k.toList) : assembleCore m ops = none :=
  (assembleCore_eq m ops).trans (dispatch_eq_none h)

theorem assemblePseudo_unknown (h : ∀ k ∈ pseudoMnemonics, m ≠ k.toList) : assemblePseudo m ops = none :=
  (assemblePseudo_eq m ops).trans (dispatch_eq_none h)

/-- No mnemonic is both a core instruction's and a pseudo-instruction's. -/
theorem mnemonics_apart {k k' : String} (hk : k ∈ coreMnemonics) (hk' : k' ∈ pseudoMnemonics) : k.toList ≠ k'.toList :=
  fun e => (List.nodup_append.mp mnemonics_nodup).2.2 k hk k' hk' (String.toList_inj.mp e)

theorem assemble_of_coreRow {k : String} {r : Option Instr} (n : Nat) (h : (coreRows ops)[n]? = some (k, r)) :
    assemble ⟨k.toList, ops⟩ = r :=
  have known : k ∈ coreMnemonics := List.mem_map_of_mem (f := Prod.fst) (List.mem_of_getElem? h)
  assemble_core (assembleCore_of_row h) (assemblePseudo_unknown fun _ => mnemonics_apart known)

theorem assemble_of_pseudoRow {k : String} {r : Option Instr} (n : Nat) (h : (pseudoRows ops)[n]? = some (k, r)) :
    assemble ⟨k.toList, ops⟩ = r :=
  have known : k ∈ pseudoMnemonics := List.mem_map_of_mem (f := Prod.fst) (List.mem_of_getElem? h)
  assemble_pseudo (assembleCore_unknown fun _ hk => (mnemonics_apart hk known).symm) (assemblePseudo_of_row h)

theorem assemble_unknown (h : ∀ k ∈ coreMnemonics ++ pseudoMnemonics, m ≠ k.toList) : assemble ⟨m, ops⟩ = none :=
  have ⟨core, pseudo⟩ := List.forall_mem_append.mp h
  assemble_core (assembleCore_unknown core) (assemblePseudo_unknown pseudo)

end

/-! ### The lines of the syntax -/

theorem assemble_setdly (ops : List AsmOperand) : assemble ⟨"SETDLY".toList, ops⟩ = asmU16 ops .setdly :=
  assemble_of_coreRow (rowIndex (.setdly 0)) rfl

theorem assemble_regrd (ops : List AsmOperand) : assemble ⟨"REGRD".toList, ops⟩ = asmU8 ops .regrd :=
  assemble_of_coreRow (rowIndex (.regrd 0)) rfl

theorem assemble_setdbg (ops : List AsmOperand) : assemble ⟨"SETDBG".toList, ops⟩ = asmBit ops .setdbg :=
  assemble_of_coreRow (rowIndex (.setdbg false)) rfl

theorem assemble_seten (ops : List AsmOperand) :
    assemble ⟨"SETEN".toList, ops⟩ = asmBit ops fun b => if b then .enable else .disable :=
  assemble_of_pseudoRow 0 rfl

theorem assemble_setmode (ops : List AsmOperand) : assemble ⟨"SETMODE".toList, ops⟩ =
    asmName ops [("PowerDown".toList, .modePd), ("Measurement".toList, .modeMeas), ("FuseRomAccess".toList, .modeFuse)] :=
  assemble_of_pseudoRow 1 rfl

theorem assemble_setdet (ops : List AsmOperand) : assemble ⟨"SETDET".toList, ops⟩ =
    asmName ops [("polling".toList, .setdetPoll), ("interrupt".toList, .setdetInt)] :=
  assemble_of_pseudoRow 2 rfl

theorem assemble_calpass (ops : List AsmOperand) :
    assemble ⟨"CALPASS".toList, ops⟩ = asmChoice ops [(1, .calpass1), (2, .calpass2)] :=
  assemble_of_pseudoRow 3 rfl

/-- Settles O7: the row of each mnemonic is at its command's place in R78's table, and the operand shape in the row says what
the line assembles to. -/
theorem assemblerNeverWraps : Obligations.AssemblerNeverWraps := by
  unfold Obligations.AssemblerNeverWraps
  dsimp only
  refine ⟨fun p hp => ?signed, ?setdly, ?regrd, fun p hp => ?pairs, ?setdbg, fun p hp ops => ?plain, ?seten, ?calpass,
    ?setmode, ?setdet, fun l unknown => ?unknown⟩
  case signed =>
    have line (ops) : assemble ⟨p.1.toList, ops⟩ = asmS16 ops p.2 :=
      assemble_of_coreRow (rowIndex (p.2 0)) (by fin_cases hp <;> rfl)
    exact ⟨fun n => (line _).trans (asmS16_number n p.2), fun ops other => (line ops).trans (asmS16_other p.2 other)⟩
  case setdly =>
    exact ⟨fun n => (assemble_setdly _).trans (asmU16_number n _),
      fun ops other => (assemble_setdly ops).trans (asmU16_other _ other)⟩
  case regrd =>
    exact ⟨fun n => (assemble_regrd _).trans (asmU8_number n _),
      fun ops other => (assemble_regrd ops).trans (asmU8_other _ other)⟩
  case pairs =>
    have line (ops) : assemble ⟨p.1.toList, ops⟩ = asmU8U8 ops p.2 :=
      assemble_of_coreRow (rowIndex (p.2 0 0)) (by fin_cases hp <;> rfl)
    exact ⟨fun m n => (line _).trans (asmU8U8_numbers m n p.2),
      fun ops other => (line ops).trans (asmU8U8_other p.2 other)⟩
  case setdbg =>
    exact ⟨fun n => (assemble_setdbg _).trans (asmBit_number n _),
      fun ops other => (assemble_setdbg ops).trans (asmBit_other _ other)⟩
  case plain =>
    have line : assemble ⟨p.1.toList, ops⟩ = asmNone ops p.2 :=
      assemble_of_coreRow (rowIndex p.2) (by fin_cases hp <;> rfl)
    exact line.trans (asmNone_eq ops p.2)
  case seten =>
    exact ⟨fun n => (assemble_seten _).trans (asmBit_number n _),
      fun ops other => (assemble_seten ops).trans (asmBit_other _ other)⟩
  case calpass =>
    refine ⟨fun n => ?_, fun ops other => (assemble_calpass ops).trans (asmChoice_other _ other)⟩
    simp only [assemble_calpass, asmChoice_cons, asmChoice_nil]
  case setmode =>
    refine ⟨fun n => ?_, fun ops other => (assemble_setmode ops).trans (asmName_other _ other)⟩
    simp only [assemble_setmode, asmName_cons, asmName_nil]
  case setdet =>
    refine ⟨fun n => ?_, fun ops other => (assemble_setdet ops).trans (asmName_other _ other)⟩
    simp only [assemble_setdet, asmName_cons, asmName_nil]
  case unknown =>
    refine assemble_unknown fun k hk => unknown k ?listed
    revert k
    decide

end Sys2Proof.Machine
end

section
/-! SUPPORT. The transport passthrough (R101 to R103): a register read and a register write by the answer of the bus,
whatever the rest of the environment says, and the three commands that are one access each. -/

namespace Sys2Proof.Machine

/-! ### An access by the answer of the bus (R53, R55, R57) -/

/-- The settle wait is one event at the soft-reset register and none elsewhere (R57). -/
theorem State.settle_eq (s : State) (addr : Byte) : s.settle addr =
    { s with trace := s.trace ++ if addr = s.cfg.addrSrst then [.wait s.cfg.srstSettleMs] else [] } := by
  unfold State.settle
  split
  · rfl
  · rw [List.append_nil]

section
variable {s : State}

theorem memRead_of_ack (addr : Byte) {n : Nat} (pos : 1 ≤ n) (fits : n ≤ s.cfg.maxXfer) (ack : s.env.ack = true) :
    memRead addr n s = .done (s.env.popAck.take n)
      ((s.dropAck.dropBytes n).emit (.busRead addr n (some (s.env.popAck.take n)))) := by
  rw [memRead, if_neg (by omega), if_pos ack]
  rfl

theorem memRead_of_nack (addr : Byte) {n : Nat} (pos : 1 ≤ n) (fits : n ≤ s.cfg.maxXfer) (nack : s.env.ack = false) :
    memRead addr n s = .raised .transport (s.dropAck.emit (.busRead addr n none)) := by
  rw [memRead, if_neg (by omega), if_neg (Bool.eq_false_iff.mp nack)]

theorem readByte_of_ack (addr : Byte) (fits : 1 ≤ s.cfg.maxXfer) (ack : s.env.ack = true) :
    readByte addr s = .done s.env.popAck.byte
      ((s.dropAck.dropBytes 1).emit (.busRead addr 1 (some [s.env.popAck.byte]))) := by
  rw [readByte, memRead_of_ack addr le_rfl fits ack]
  rfl

theorem readByte_of_nack (addr : Byte) (fits : 1 ≤ s.cfg.maxXfer) (nack : s.env.ack = false) :
    readByte addr s = .raised .transport (s.dropAck.emit (.busRead addr 1 none)) := by
  rw [readByte, memRead_of_nack addr le_rfl fits nack, Res.andThen_raised]

theorem memWrite_of_ack (addr : Byte) {payload : List Byte} (pos : 1 ≤ payload.length)
    (fits : payload.length ≤ s.cfg.maxXfer) (ack : s.env.ack = true) : memWrite addr payload s =
      .done () (((s.dropAck.emit (.busWrite addr payload true)).shadowUpdate addr payload).settle addr) := by
  rw [memWrite, if_neg (by omega), if_pos ack]

theorem memWrite_of_nack (addr : Byte) {payload : List Byte} (pos : 1 ≤ payload.length)
    (fits : payload.length ≤ s.cfg.maxXfer) (nack : s.env.ack = false) :
    memWrite addr payload s = .raised .transport (s.dropAck.emit (.busWrite addr payload false)) := by
  rw [memWrite, if_neg (by omega), if_neg (Bool.eq_false_iff.mp nack)]

end

/-! ### The commands -/

/-- Settles O19, by the answer of the bus to the read. -/
theorem readRegisterCommand : Obligations.ReadRegisterCommand := by
  refine fun addr => ⟨decode_encode (.regrd addr), fun s fits => ⟨fun ack => ?_, fun nack => ?_⟩⟩
  · rw [exec, execRegrd, readByte_of_ack addr fits ack]
    rfl
  · rw [exec, execRegrd, readByte_of_nack addr fits nack]
    rfl

/-- Settles O20, by the answer of the bus to the write. -/
theorem writeRegisterCommand : Obligations.WriteRegisterCommand := by
  refine fun addr v => ⟨decode_encode (.regwr addr v), fun s fits => ⟨fun ack => ?_, fun nack => ?_⟩⟩
  · rw [exec, execRegwr, memWrite_of_ack addr (payload := [v]) le_rfl fits ack, State.settle_eq]
    rfl
  · rw [exec, execRegwr, memWrite_of_nack addr (payload := [v]) le_rfl fits nack]
    rfl

/-- Settles O21, by the answer of the bus to the read of the identity register; the comparison is CHKID's own. -/
theorem checkIdentityCommand : Obligations.CheckIdentityCommand := by
  refine ⟨decode_encode .chkid, fun s fits => ⟨fun ack => ?_, fun nack => ?_⟩⟩
  · rw [exec, execChkid, readByte_of_ack s.cfg.addrId fits ack, Res.andThen_done, boolResult]
    simp only [beq_iff_eq]
    rfl
  · rw [exec, execChkid, readByte_of_nack s.cfg.addrId fits nack]
    rfl

end Sys2Proof.Machine
end

section
/-! SUPPORT. The codec (R120 to R125). A byte pair is its two's-complement pattern laid out over two bytes, so the codec is
the clamp, the pattern of a number and the number of a pattern. -/

namespace Sys2Proof.Machine

/-! ### The clamp (R11) -/

theorem clamp_eq {lo hi : Int} (h : lo ≤ hi) (v : Int) : clamp v lo hi = max lo (min hi v) := by
  unfold clamp
  split
  · omega
  · split <;> omega

theorem clamp_bounds {lo hi : Int} (h : lo ≤ hi) (v : Int) : lo ≤ clamp v lo hi ∧ clamp v lo hi ≤ hi := by
  rw [clamp_eq h]
  omega

theorem clamp_of_mem {lo hi v : Int} (low : lo ≤ v) (high : v ≤ hi) : clamp v lo hi = v := by
  rw [clamp_eq (low.trans high)]
  omega

theorem clamp_clamp {lo hi : Int} (h : lo ≤ hi) (v : Int) : clamp (clamp v lo hi) lo hi = clamp v lo hi :=
  clamp_of_mem (clamp_bounds h v).1 (clamp_bounds h v).2

/-! ### A signed number by its sign bit and the bits below it -/

theorem toNat_low7 (b : Byte) : (b &&& 0x7F).toNat = b.toNat % 128 := by
  rw [BitVec.toNat_and]
  exact Nat.and_two_pow_sub_one_eq_mod _ 7

theorem toNat_sign_or_low7 (b : Byte) : (0x80 ||| (b &&& 0x7F)).toNat = 128 + b.toNat % 128 := by
  rw [BitVec.toNat_or, toNat_low7]
  exact (Nat.two_pow_add_eq_or_of_lt (i := 7) (Nat.mod_lt _ (by decide)) 1).symm

theorem toInt_eq_ite_msb {w : Nat} (p : BitVec (w + 1)) :
    p.toInt = if p.msb then ((p.setWidth w).toNat : Int) - 2 ^ w else (p.setWidth w).toNat := by
  have whole : p.toNat = p.msb.toNat * 2 ^ w + (p.setWidth w).toNat := by
    conv_lhs => rw [← BitVec.cons_msb_setWidth p, BitVec.toNat_cons']
    rw [Nat.shiftLeft_eq]
  rw [BitVec.toInt_eq_msb_cond, whole, Nat.pow_succ]
  cases p.msb with
  | false => simp
  | true =>
    simp only [Bool.toNat_true, if_true]
    push_cast
    omega

/-! ### The 10-bit pattern and its byte pair (R120, R122, R124) -/

/-- The layout of a 10-bit pattern over two bytes: bits 9:8 over six zeros, and bits 7:0 (R122). -/
def pairOfPattern (p : BitVec 10) : Byte × Byte :=
  ((p.extractLsb' 8 2 ++ 0#6 : BitVec (2 + 6)), p.extractLsb' 0 8)

/-- The 10-bit pattern a byte pair holds, `hi[7:6]` over `lo` (R124). -/
def patternOfPair (hi lo : Byte) : BitVec 10 := (hi.extractLsb' 6 2 ++ lo : BitVec (2 + 8))

theorem patternOfPair_pairOfPattern (p : BitVec 10) : patternOfPair (pairOfPattern p).1 (pairOfPattern p).2 = p := by
  unfold patternOfPair pairOfPattern
  rw [BitVec.extractLsb'_append_eq_left]
  exact BitVec.extractLsb'_append_extractLsb'

/-- Laying a pair's pattern out again gives the pair when the six ignored bits are zero, and only then. -/
theorem pairOfPattern_patternOfPair (hi lo : Byte) :
    pairOfPattern (patternOfPair hi lo) = (hi, lo) ↔ hi.extractLsb' 0 6 = 0 := by
  have halves : (hi.extractLsb' 6 2 ++ hi.extractLsb' 0 6 : BitVec (2 + 6)) = hi := BitVec.extractLsb'_append_extractLsb'
  unfold pairOfPattern patternOfPair
  rw [BitVec.extractLsb'_append_eq_left, BitVec.extractLsb'_append_eq_right, Prod.mk.injEq]
  constructor
  · rintro ⟨same, -⟩
    rw [← same]
    exact BitVec.extractLsb'_append_eq_right
  · intro zero
    rw [zero] at halves
    exact ⟨halves, rfl⟩

/-- The high byte is laid out from the sign bit and the top of the nine bits below it, as R122 writes it. -/
theorem pairOfPattern_eq_sign_rest (p : BitVec 10) : pairOfPattern p =
    ((BitVec.ofBool p.msb ++ (p.setWidth 9).extractLsb' 8 1 ++ 0#6 : BitVec (1 + 1 + 6)),
      (p.setWidth 9).extractLsb' 0 8) := by
  have sign : BitVec.ofBool p.msb = p.extractLsb' 9 1 := by
    rw [BitVec.msb_eq_getLsbD_last, ← BitVec.setWidth_eq (p.extractLsb' 9 1), BitVec.setWidth_one,
      BitVec.getLsbD_extractLsb']
    rfl
  have top : (p.extractLsb' 9 1 ++ p.extractLsb' 8 1 : BitVec (1 + 1)) = p.extractLsb' 8 2 :=
    BitVec.extractLsb'_append_extractLsb'_eq_extractLsb' rfl
  rw [BitVec.extractLsb'_setWidth_of_le (by decide), BitVec.extractLsb'_setWidth_of_le (by decide), sign, top]
  rfl

theorem patternOfPair_msb (hi lo : Byte) : (patternOfPair hi lo).msb = hi.getLsbD 7 := by
  have top : (patternOfPair hi lo).msb = (hi.extractLsb' 6 2).msb := BitVec.msb_append
  rw [top, BitVec.msb_extractLsb', BitVec.getLsbD_eq_getMsbD]
  rfl

theorem patternOfPair_setWidth (hi lo : Byte) :
    (patternOfPair hi lo).setWidth 9 = (hi.extractLsb' 6 1 ++ lo : BitVec (1 + 8)) := by
  have rest : (patternOfPair hi lo).setWidth 9 = ((hi.extractLsb' 6 2).setWidth 1 ++ lo : BitVec (1 + 8)) :=
    BitVec.setWidth_append
  rw [rest, BitVec.setWidth_extractLsb'_of_le (by decide)]

/-! ### The codec as patterns -/

theorem encode8_eq (v : Int) : encode8 v = (0x00, BitVec.ofInt 8 (clamp v (-128) 127)) := by
  obtain ⟨low, high⟩ := clamp_bounds (lo := -128) (hi := 127) (by decide) v
  unfold encode8
  generalize clamp v (-128) 127 = c at low high
  refine Prod.ext rfl (BitVec.eq_of_toNat_eq ?_)
  dsimp only
  split
  · rw [toNat_low7, BitVec.toNat_ofInt]
    omega
  · rw [toNat_sign_or_low7, BitVec.toNat_ofInt, BitVec.toNat_ofInt]
    omega

theorem encode10_eq (v : Int) : encode10 v = pairOfPattern (BitVec.ofInt 10 (clamp v (-512) 511)) := by
  obtain ⟨low, high⟩ := clamp_bounds (lo := -512) (hi := 511) (by decide) v
  unfold encode10
  generalize clamp v (-512) 511 = c at low high
  have sign : (BitVec.ofInt 10 c).msb = decide (c < 0) := by
    rw [BitVec.msb_eq_toInt, BitVec.toInt_ofInt_eq_self (by decide) low (by omega)]
  have rest : (if 0 ≤ c then BitVec.ofInt 9 c else BitVec.ofInt 9 (512 - c.natAbs)) = (BitVec.ofInt 10 c).setWidth 9 := by
    refine BitVec.eq_of_toNat_eq ?_
    rw [BitVec.toNat_setWidth, BitVec.toNat_ofInt]
    split <;> rw [BitVec.toNat_ofInt] <;> omega
  dsimp only
  rw [rest, ← sign]
  exact (pairOfPattern_eq_sign_rest _).symm

theorem decode8_eq (hi lo : Byte) : decode8 hi lo = lo.toInt := by
  have rest : (lo &&& 0x7F).toNat = (lo.setWidth 7).toNat := by rw [toNat_low7, BitVec.toNat_setWidth]
  rw [decode8, rest]
  exact (toInt_eq_ite_msb (w := 7) lo).symm

theorem decode10_eq (hi lo : Byte) : decode10 hi lo = (patternOfPair hi lo).toInt := by
  rw [decode10, ← patternOfPair_setWidth, ← patternOfPair_msb hi lo]
  exact (toInt_eq_ite_msb (w := 9) _).symm

/-! ### The statements about the codec -/

/-- Settles O8, by `encode8_eq` and `encode10_eq`. -/
theorem encodedPairsAreTwosComplement : Obligations.EncodedPairsAreTwosComplement := by
  intro v
  rw [encode8_eq, encode10_eq, clamp_eq (by decide), clamp_eq (by decide)]
  exact ⟨rfl, rfl⟩

theorem decode8_encode8 {v : Int} (low : -128 ≤ v) (high : v ≤ 127) : decode8 (encode8 v).1 (encode8 v).2 = v := by
  rw [decode8_eq, encode8_eq, clamp_of_mem low high]
  exact BitVec.toInt_ofInt_eq_self (by decide) low (by omega)

theorem decode10_encode10 {v : Int} (low : -512 ≤ v) (high : v ≤ 511) : decode10 (encode10 v).1 (encode10 v).2 = v := by
  rw [decode10_eq, encode10_eq, patternOfPair_pairOfPattern, clamp_of_mem low high]
  exact BitVec.toInt_ofInt_eq_self (by decide) low (by omega)

theorem decode8_bounds (hi lo : Byte) : -128 ≤ decode8 hi lo ∧ decode8 hi lo ≤ 127 := by
  rw [decode8_eq]
  exact ⟨lo.le_toInt, BitVec.toInt_le⟩

/-- The pair an 8-bit decoding comes from, with its high byte zeroed. -/
theorem encode8_decode8 (hi lo : Byte) : encode8 (decode8 hi lo) = (0x00, lo) := by
  obtain ⟨low, high⟩ := decode8_bounds hi lo
  rw [encode8_eq, clamp_of_mem low high, decode8_eq, BitVec.ofInt_toInt]

theorem encode10_decode10 (hi lo : Byte) : encode10 (decode10 hi lo) = pairOfPattern (patternOfPair hi lo) := by
  obtain ⟨low, high⟩ := decode10_inSampleRange hi lo
  rw [encode10_eq, clamp_of_mem low high, decode10_eq, BitVec.ofInt_toInt]

/-- Settles O13: the round trip, the saturation, the range, and the pairs that are encoded again as they were. -/
theorem codecRoundTrip : Obligations.CodecRoundTrip := by
  refine ⟨fun v ⟨low, high⟩ => decode8_encode8 low high, fun v ⟨low, high⟩ => decode10_encode10 low high,
    fun v => ⟨?_, ?_⟩, fun hi lo => ?_, fun hi lo => ?_, fun hi lo => ?_⟩
  · rw [← clamp_eq (by decide), encode8_eq, encode8_eq, clamp_clamp (by decide)]
  · rw [← clamp_eq (by decide), encode10_eq, encode10_eq, clamp_clamp (by decide)]
  · obtain ⟨low, high⟩ := decode8_bounds hi lo
    exact ⟨low, high, decode10_inSampleRange hi lo⟩
  · rw [encode8_decode8, Prod.mk.injEq]
    exact ⟨fun ⟨zero, _⟩ => zero.symm, fun zero => ⟨zero.symm, rfl⟩⟩
  · rw [encode10_decode10]
    exact pairOfPattern_patternOfPair hi lo

/-! ### The four commands (R126 to R129) -/

theorem pairResult_zero_high (b : Byte) : pairResult (0x00, b) = b.zeroExtend 32 := by
  have zeros : (0#16 ++ 0#8 : BitVec (16 + 8)) = 0#24 := BitVec.zero_append_zero
  have extended : b.zeroExtend 32 = (0#24 ++ b : BitVec (24 + 8)) := BitVec.setWidth_eq_append (by decide)
  rw [extended, ← zeros]
  rfl

theorem pairResult_pairOfPattern (p : BitVec 10) : pairResult (pairOfPattern p) =
    (0#16 ++ p.extractLsb' 8 2 ++ 0#6 ++ p.extractLsb' 0 8 : BitVec (16 + 2 + 6 + 8)) := by
  rw [pairResult, pairOfPattern, BitVec.append_assoc']
  rfl

/-- Settles O9: the result is the pair of `encode8_eq` in a word. -/
theorem encodeEightResult : Obligations.EncodeEightResult := by
  refine fun v => ⟨decode_encode (.enc8 v), fun s => ?_⟩
  rw [exec, execEnc8, encodeSample, signedOperand, encode8_eq, clamp_eq (by decide), pairResult_zero_high]
  rfl

/-- Settles O10: the result is the pair of `encode10_eq` in a word. -/
theorem encodeTenResult : Obligations.EncodeTenResult := by
  refine fun v => ⟨decode_encode (.enc10 v), fun s => ?_⟩
  rw [exec, execEnc10, encodeSample, signedOperand, encode10_eq, clamp_eq (by decide), pairResult_pairOfPattern]
  rfl

/-- Settles O11: the number of `decode8_eq` in a word is the byte sign-extended. -/
theorem decodeEightResult : Obligations.DecodeEightResult := by
  refine fun hi lo => ⟨decode_encode (.dec8 hi lo), fun s => ?_⟩
  rw [exec, execDec8, decodeSample, decode8_eq]
  rfl

/-- Settles O12: the number of `decode10_eq` in a word is the pattern sign-extended. -/
theorem decodeTenResult : Obligations.DecodeTenResult := by
  refine fun hi lo => ⟨decode_encode (.dec10 hi lo), fun s => ?_⟩
  rw [exec, execDec10, decodeSample, decode10_eq]
  rfl

end Sys2Proof.Machine
end

section
/-! SUPPORT. Detection modes and reprogramming as sequences of writes (R145, R146, R182, R190): each operation is
`memWrites` of the list of writes the statements name, so that one pair of lemmas about listed answers serves them all. -/

namespace Sys2Proof.Machine

/-! ### Steps in order -/

section
variable {α β γ : Type}

theorem Res.andThen_assoc (r : Res α) (f : α → State → Res β) (g : β → State → Res γ) :
    (r.andThen f).andThen g = r.andThen fun v s => (f v s).andThen g := by
  cases r <;> rfl

theorem Res.andThen_congr {r : Res α} {f g : α → State → Res β} (h : ∀ v s, r = .done v s → f v s = g v s) :
    r.andThen f = r.andThen g := by
  cases r with
  | done v s => exact h v s rfl
  | raised e s => rfl

end

theorem memWrites_one (addr v : Byte) (s : State) : memWrites [(addr, v)] s = memWrite addr [v] s := by
  simp only [memWrites]
  cases memWrite addr [v] s <;> rfl

theorem memWrites_append (xs ys : List (Byte × Byte)) (s : State) :
    memWrites (xs ++ ys) s = (memWrites xs s).andThen fun _ t => memWrites ys t := by
  induction xs generalizing s with
  | nil => rfl
  | cons x xs ih => simp only [List.cons_append, memWrites, Res.andThen_assoc, ih]

/-- A write that is done was acknowledged (R55). -/
theorem memWrite_done {addr : Byte} {payload : List Byte} {s t : State} (h : memWrite addr payload s = .done () t) :
    t = ((s.dropAck.emit (.busWrite addr payload true)).shadowUpdate addr payload).settle addr := by
  obtain ⟨-, e⟩ | ⟨-, e⟩ | ⟨-, e⟩ := memWrite_cases addr payload s <;> rw [e] at h <;> cases h
  rfl

/-- After writes that are all done the shadow of INTSRS holds the last byte written there (R56). -/
theorem memWrites_done {ws : List (Byte × Byte)} {s t : State} (h : memWrites ws s = .done () t) :
    t.cfg = s.cfg ∧ t.intsrs = lastWritten s.cfg.addrIntsrs s.intsrs (acknowledged ws) := by
  induction ws generalizing s with
  | nil =>
    cases h
    exact ⟨rfl, rfl⟩
  | cons w ws ih =>
    obtain ⟨_, u, first, rest⟩ := Res.andThen_eq_done h
    obtain rfl := memWrite_done first
    obtain ⟨cfg, intsrs⟩ := ih rest
    rw [State.settle_cfg, State.settle_intsrs] at intsrs
    exact ⟨cfg.trans (State.settle_cfg _ _), intsrs⟩

/-! ### The writes of each operation -/

theorem programmingWrites_congr {s t : State} (cfg : t.cfg = s.cfg) (opf : t.opf = s.opf) (th : t.th = s.th)
    (tl : t.tl = s.tl) (type : IrqType) : programmingWrites t type = programmingWrites s type := by
  simp only [programmingWrites, cfg, opf, th, tl]

theorem updateThresholds_eq (s : State) :
    updateThresholds s = memWrites (programmingWrites s (irqType s.cfg s.intsrs)) s := by
  rw [updateThresholds, thresholdWrites_eq]

/-- The type of a zone, written only where it changes, and then the thresholds (R145, R190). -/
theorem reprogramming_eq {s : State} (wf : s.cfg.wf = true) (z : Zone) :
    ((writeTypeFor z s).andThen fun _ t => updateThresholds t) = memWrites (reprogramWrites s z) s := by
  obtain ⟨hoi, -, -, -⟩ := Config.wf_distinct wf
  by_cases same : irqType s.cfg s.intsrs = typeFor z
  · rw [writeTypeFor, if_pos same, Res.andThen_done, updateThresholds_eq, reprogramWrites, if_pos same, same]
    rfl
  · have written := irqType_setField wf s.intsrs (typeFor z)
    rw [writeTypeFor, if_neg same, reprogramWrites, if_neg same, intsrsFor, if_neg same]
    refine Res.andThen_congr fun _ t h => ?_
    obtain rfl := memWrite_done h
    rw [updateThresholds_eq]
    simp [shadowAfter, hoi.symm, written, programmingWrites]

theorem addrIntsrs_away {c : Config} (wf : c.wf = true) : c.addrIntsrs ≠ c.addrOpf ∧ c.addrIntsrs ≠ c.addrSrst := by
  obtain ⟨hoi, -, hir, -⟩ := Config.wf_distinct wf
  exact ⟨hoi.symm, hir⟩

theorem reprogramWrites_away {s : State} (wf : s.cfg.wf = true) (z : Zone) :
    ∀ w ∈ reprogramWrites s z, w.1 ≠ s.cfg.addrOpf ∧ w.1 ≠ s.cfg.addrSrst := by
  intro w hw
  obtain hw | hw := List.mem_append.mp hw
  · split at hw
    · cases hw
    · obtain rfl := List.mem_singleton.mp hw
      exact addrIntsrs_away wf
  · obtain ⟨opf, -, srst⟩ := programmingWrites_elsewhere wf _ w hw
    exact ⟨opf, srst⟩

theorem acknowledged_append (xs ys : List (Byte × Byte)) :
    acknowledged (xs ++ ys) = acknowledged xs ++ acknowledged ys := List.map_append

/-- Reprogrammed for a zone, INTSRS has the type of the zone (R145, R190). -/
theorem lastWritten_reprogramWrites {s : State} (wf : s.cfg.wf = true) (z : Zone) :
    lastWritten s.cfg.addrIntsrs s.intsrs (acknowledged (reprogramWrites s z)) = intsrsFor s z := by
  have thresholds (old : Byte) :
      lastWritten s.cfg.addrIntsrs old (acknowledged (programmingWrites s (typeFor z))) = old :=
    lastWritten_elsewhere _ _ _ fun w hw => (programmingWrites_elsewhere wf _ w hw).2.1
  rw [reprogramWrites, acknowledged_append, lastWritten_append, thresholds]
  split
  · rw [intsrsFor, if_pos ‹_›]
    rfl
  · exact if_pos rfl

/-! ### Detection modes -/

/-- INTSRS in interrupt mode with the type of the last zone (R145). -/
def interruptIntsrs (s : State) : Byte := intsrsFor s s.lastZone ||| s.cfg.intsrsDet

/-- The writes of SETDET.INT, in order (R145). -/
def interruptWrites (s : State) : List (Byte × Byte) :=
  reprogramWrites s s.lastZone ++ [(s.cfg.addrIntsrs, interruptIntsrs s)]

theorem setDetInt_eq {s : State} (wf : s.cfg.wf = true) : setDetInt s = memWrites (interruptWrites s) s := calc
  setDetInt s = (memWrites (reprogramWrites s s.lastZone) s).andThen fun _ t =>
      writeIntsrs (setBit t.intsrs t.cfg.intsrsDet) t := by
    rw [← reprogramming_eq wf, Res.andThen_assoc]
    rfl
  _ = memWrites (interruptWrites s) s := by
    rw [interruptWrites, memWrites_append]
    refine Res.andThen_congr fun _ t h => ?_
    obtain ⟨cfg, intsrs⟩ := memWrites_done h
    rw [lastWritten_reprogramWrites wf] at intsrs
    rw [memWrites_one, writeIntsrs, cfg, intsrs]
    rfl

theorem lastWritten_interruptWrites (s : State) :
    lastWritten s.cfg.addrIntsrs s.intsrs (acknowledged (interruptWrites s)) = interruptIntsrs s := by
  rw [interruptWrites, acknowledged_append, lastWritten_append]
  exact if_pos rfl

theorem det_interruptIntsrs {s : State} (wf : s.cfg.wf = true) : det s.cfg (interruptIntsrs s) = .interrupt :=
  det_setBit wf _

theorem irqType_interruptIntsrs {s : State} (wf : s.cfg.wf = true) :
    irqType s.cfg (interruptIntsrs s) = typeFor s.lastZone :=
  (irqType_setBit wf _).trans (intsrsFor_spec wf _).1

/-- ENABLE's detection step makes the writes of the detection mode in force (R150). -/
theorem setDetCurrent_eq {s : State} (wf : s.cfg.wf = true) :
    setDetCurrent s = memWrites (detectionWrites s) s := by
  cases mode : det s.cfg s.intsrs with
  | interrupt => rw [setDetCurrent, if_pos mode, setDetInt_eq wf, detectionWrites, mode]; rfl
  | polling => rw [setDetCurrent, if_neg (by simp [mode]), detectionWrites, mode, memWrites_one]; rfl

theorem interruptWrites_away {s : State} (wf : s.cfg.wf = true) :
    ∀ w ∈ interruptWrites s, w.1 ≠ s.cfg.addrOpf ∧ w.1 ≠ s.cfg.addrSrst := by
  intro w hw
  obtain hw | hw := List.mem_append.mp hw
  · exact reprogramWrites_away wf _ w hw
  · obtain rfl := List.mem_singleton.mp hw
    exact addrIntsrs_away wf

theorem detectionWrites_away {s : State} (wf : s.cfg.wf = true) :
    ∀ w ∈ detectionWrites s, w.1 ≠ s.cfg.addrOpf ∧ w.1 ≠ s.cfg.addrSrst := by
  unfold detectionWrites
  cases det s.cfg s.intsrs with
  | interrupt => exact interruptWrites_away wf
  | polling =>
    intro w hw
    obtain rfl := List.mem_singleton.mp hw
    exact addrIntsrs_away wf

theorem lastWritten_detectionWrites (s : State) :
    lastWritten s.cfg.addrIntsrs s.intsrs (acknowledged (detectionWrites s)) = detectedIntsrs s := by
  unfold detectionWrites detectedIntsrs
  cases det s.cfg s.intsrs with
  | interrupt => exact lastWritten_interruptWrites s
  | polling => exact if_pos rfl

theorem det_detectedIntsrs {s : State} (wf : s.cfg.wf = true) : det s.cfg (detectedIntsrs s) = det s.cfg s.intsrs := by
  unfold detectedIntsrs
  cases det s.cfg s.intsrs with
  | interrupt => exact det_interruptIntsrs wf
  | polling => exact det_clearBit _ _

/-! ### Sequences of writes that leave OPF alone, with their answers listed -/

/-- A write that is not acknowledged moves no shadow (R56). -/
theorem lastWritten_stoppedAt (reg old : Byte) (k : Nat) (ws : List (Byte × Byte)) :
    lastWritten reg old (stoppedAt k ws) = lastWritten reg old (acknowledged (ws.take k)) := by
  rw [stoppedAt, lastWritten_append]
  cases ws.drop k <;> rfl

section
variable {ws : List (Byte × Byte)} {s : State} {rest : List Bool} (wf : s.cfg.wf = true)
  (away : ∀ w ∈ ws, w.1 ≠ s.cfg.addrOpf ∧ w.1 ≠ s.cfg.addrSrst)
include wf away

theorem memWrites_away_acked (acks : s.env.acks = List.replicate ws.length true ++ rest) :
    memWrites ws s = .done () { s with
      intsrs := lastWritten s.cfg.addrIntsrs s.intsrs (acknowledged ws)
      env := { s.env with acks := rest }, trace := s.trace ++ acknowledged ws } := by
  rw [memWrites_acked ws s rest (Config.wf_maxXfer wf) (fun w hw => (away w hw).2) acks, State.afterWrites,
    lastWritten_elsewhere s.cfg.addrOpf _ ws fun w hw => (away w hw).1]

theorem memWrites_away_stopped {k : Nat} (hk : k < ws.length) (acks : s.env.acks = List.replicate k true ++ false :: rest) :
    memWrites ws s = .raised .transport { s with
      intsrs := lastWritten s.cfg.addrIntsrs s.intsrs (stoppedAt k ws)
      env := { s.env with acks := rest }, trace := s.trace ++ stoppedAt k ws } := by
  rw [memWrites_stopped ws s k rest (Config.wf_maxXfer wf) (fun w hw => (away w hw).2) hk acks,
    lastWritten_stoppedAt s.cfg.addrOpf,
    lastWritten_elsewhere s.cfg.addrOpf _ _ fun w hw => (away w (List.mem_of_mem_take hw)).1]

end

/-- Settles O26: the writes of `setDetInt_eq`, all acknowledged or stopped at the first that is not. -/
theorem interruptDetectionCommand : Obligations.InterruptDetectionCommand := by
  refine ⟨decode_encode .setdetInt, fun s rest wf => ⟨det_interruptIntsrs wf, irqType_interruptIntsrs wf,
    fun acks => ?_, fun k hk acks => ?_⟩⟩
  · rw [exec, execSetdetInt, setDetInt_eq wf, memWrites_away_acked wf (interruptWrites_away wf) acks,
      lastWritten_interruptWrites]
    rfl
  · rw [exec, execSetdetInt, setDetInt_eq wf, memWrites_away_stopped wf (interruptWrites_away wf) hk acks]
    rfl

end Sys2Proof.Machine
end

section
/-! SUPPORT. The mode and detection-mode commands (R140 to R149, R153): each register write and each line request by the
answer of the environment, and the operations built of one write and at most one request. -/

namespace Sys2Proof.Machine

/-! ### A shadowed register and the line, by the answer of the environment -/

section
variable {s : State} (wf : s.cfg.wf = true) (v : Byte)
include wf

theorem writeOpf_of_ack (ack : s.env.ack = true) : writeOpf v s = .done () { s with
    opf := v, env := s.env.popAck, trace := s.trace ++ [.busWrite s.cfg.addrOpf [v] true] } := by
  obtain ⟨hoi, hor, -, -⟩ := Config.wf_distinct wf
  rw [writeOpf, memWrite_of_ack s.cfg.addrOpf (payload := [v]) le_rfl (Config.wf_maxXfer wf) ack, State.settle_eq]
  simp [State.shadowUpdate, shadowAfter, State.emit, State.dropAck, hoi, hor]

theorem writeOpf_of_nack (nack : s.env.ack = false) : writeOpf v s = .raised .transport { s with
    env := s.env.popAck, trace := s.trace ++ [.busWrite s.cfg.addrOpf [v] false] } :=
  memWrite_of_nack s.cfg.addrOpf (payload := [v]) le_rfl (Config.wf_maxXfer wf) nack

theorem writeIntsrs_of_ack (ack : s.env.ack = true) : writeIntsrs v s = .done () { s with
    intsrs := v, env := s.env.popAck, trace := s.trace ++ [.busWrite s.cfg.addrIntsrs [v] true] } := by
  obtain ⟨hio, hir⟩ := addrIntsrs_away wf
  rw [writeIntsrs, memWrite_of_ack s.cfg.addrIntsrs (payload := [v]) le_rfl (Config.wf_maxXfer wf) ack, State.settle_eq]
  simp [State.shadowUpdate, shadowAfter, State.emit, State.dropAck, hio, hir]

theorem writeIntsrs_of_nack (nack : s.env.ack = false) : writeIntsrs v s = .raised .transport { s with
    env := s.env.popAck, trace := s.trace ++ [.busWrite s.cfg.addrIntsrs [v] false] } :=
  memWrite_of_nack s.cfg.addrIntsrs (payload := [v]) le_rfl (Config.wf_maxXfer wf) nack

end

theorem irqAttach_of_grant {s : State} {h : Handle} (grant : s.env.grant = some h) : irqAttach s = .done () { s with
    irqAttached := true, irqHandle := some h, env := s.env.popGrant, trace := s.trace ++ [requestEvent s (some h)] } := by
  rw [irqAttach, grant]
  rfl

theorem irqAttach_of_refusal {s : State} (refused : s.env.grant = none) : irqAttach s = .raised .interruptAttach { s with
    env := s.env.popGrant, trace := s.trace ++ [requestEvent s none] } := by
  rw [irqAttach, refused]
  rfl

/-! ### The mode each value of OPF stands for (R26) -/

theorem mode_clearActive (c : Config) (r : Byte) : mode c (clearBit r c.opfActive) = .powerDown :=
  if_pos (field_clearBit_same r c.opfActive)

theorem mode_of_active {c : Config} (wf : c.wf = true) (r : Byte) : mode c (setBit r c.opfActive) =
    if field r c.opfFuse = 0 then .measurement else .fuseRomAccess := by
  have w := Config.wf_spec wf
  rw [mode, field_setBit_same, if_neg (oneBitMask_ne_zero w.active), field_setBit_other r w.activeFuse]

theorem mode_measuringOpf {s : State} (wf : s.cfg.wf = true) : mode s.cfg (measuringOpf s) = .measurement :=
  (mode_of_active wf _).trans (if_pos (field_clearBit_same s.opf s.cfg.opfFuse))

theorem mode_fuse {c : Config} (wf : c.wf = true) (r : Byte) :
    mode c (setBit (setBit r c.opfFuse) c.opfActive) = .fuseRomAccess := by
  rw [mode_of_active wf, field_setBit_same, if_neg (oneBitMask_ne_zero (Config.wf_spec wf).fuse)]

/-! ### PowerDown: the line is released first (R140) -/

section
variable {s : State} (wf : s.cfg.wf = true)
include wf

theorem setModePd_of_ack (ack : s.env.ack = true) : setModePd s = .done () { s.lineReleased with
    opf := offOpf s, env := s.env.popAck
    trace := s.trace ++ releaseEvents s ++ [.busWrite s.cfg.addrOpf [offOpf s] true] } := by
  rw [setModePd, detachIfAttached_eq]
  exact writeOpf_of_ack (s := s.lineReleased) wf _ ack

theorem setModePd_of_nack (nack : s.env.ack = false) : setModePd s = .raised .transport { s.lineReleased with
    env := s.env.popAck, trace := s.trace ++ releaseEvents s ++ [.busWrite s.cfg.addrOpf [offOpf s] false] } := by
  rw [setModePd, detachIfAttached_eq]
  exact writeOpf_of_nack (s := s.lineReleased) wf _ nack

/-! ### Measurement: the line is requested after the write (R141) -/

theorem setModeMeas_of_nack (nack : s.env.ack = false) : setModeMeas s = .raised .transport { s with
    env := s.env.popAck, trace := s.trace ++ [.busWrite s.cfg.addrOpf [measuringOpf s] false] } := by
  rw [setModeMeas, writeOpf_of_nack wf _ nack]
  rfl

/-- No line is requested in polling mode, or where one is attached. -/
theorem setModeMeas_unasked (ack : s.env.ack = true)
    (unasked : ¬(det s.cfg s.intsrs = .interrupt ∧ s.irqAttached = false)) : setModeMeas s = .done () { s with
      opf := measuringOpf s, env := s.env.popAck
      trace := s.trace ++ [.busWrite s.cfg.addrOpf [measuringOpf s] true] } := by
  rw [setModeMeas, writeOpf_of_ack wf _ ack, Res.andThen_done, if_neg unasked]
  rfl

section
variable (ack : s.env.ack = true) (asks : det s.cfg s.intsrs = .interrupt ∧ s.irqAttached = false)
include ack asks

theorem setModeMeas_granted {h : Handle} (grant : s.env.popAck.grant = some h) : setModeMeas s = .done () { s with
    opf := measuringOpf s, irqAttached := true, irqHandle := some h, env := s.env.popAck.popGrant
    trace := s.trace ++ [.busWrite s.cfg.addrOpf [measuringOpf s] true, requestEvent s (some h)] } := by
  rw [setModeMeas, writeOpf_of_ack wf _ ack, Res.andThen_done, if_pos asks, irqAttach_of_grant grant]
  simp only [List.append_assoc]
  rfl

theorem setModeMeas_refused (refused : s.env.popAck.grant = none) : setModeMeas s = .raised .interruptAttach { s with
    opf := measuringOpf s, env := s.env.popAck.popGrant
    trace := s.trace ++ [.busWrite s.cfg.addrOpf [measuringOpf s] true, requestEvent s none] } := by
  rw [setModeMeas, writeOpf_of_ack wf _ ack, Res.andThen_done, if_pos asks, irqAttach_of_refusal refused]
  simp only [List.append_assoc]
  rfl

end
end

/-! ### The commands -/

/-- Settles O22, by the answer of the bus to the write that follows the release. -/
theorem powerDownCommand : Obligations.PowerDownCommand := by
  refine ⟨decode_encode .modePd, fun s wf => ⟨mode_clearActive _ _, fun ack => ?_, fun nack => ?_⟩⟩
  · rw [exec, execModePd, setModePd_of_ack wf ack]
    rfl
  · rw [exec, execModePd, setModePd_of_nack wf nack]
    rfl

/-- Settles O23, by the answer of the bus and, where the line is requested, of the platform. -/
theorem measurementCommand : Obligations.MeasurementCommand := by
  refine ⟨decode_encode .modeMeas, fun s wf => ⟨mode_measuringOpf wf, fun nack => ?_, fun ack unasked => ?_,
    fun h ack asks grant => ?_, fun ack asks refused => ?_⟩⟩
  · rw [exec, execModeMeas, setModeMeas_of_nack wf nack]
    rfl
  · rw [exec, execModeMeas, setModeMeas_unasked wf ack unasked]
    rfl
  · rw [exec, execModeMeas, setModeMeas_granted wf ack asks grant]
    rfl
  · rw [exec, execModeMeas, setModeMeas_refused wf ack asks refused]
    rfl

/-- Settles O24, by the answer of the bus to the one write. -/
theorem fuseRomCommand : Obligations.FuseRomCommand := by
  refine ⟨decode_encode .modeFuse, fun s wf => ⟨mode_fuse wf s.opf, fun ack => ?_, fun nack => ?_⟩⟩
  · rw [exec, execModeFuse, setModeFuse, writeOpf_of_ack wf _ ack]
    rfl
  · rw [exec, execModeFuse, setModeFuse, writeOpf_of_nack wf _ nack]
    rfl

/-- Settles O25, by the answer of the bus to the one write. -/
theorem pollingDetectionCommand : Obligations.PollingDetectionCommand := by
  refine ⟨decode_encode .setdetPoll, fun s wf => ⟨det_clearBit _ _, fun ack => ?_, fun nack => ?_⟩⟩
  · rw [exec, execSetdetPoll, setDetPoll, writeIntsrs_of_ack wf _ ack]
    rfl
  · rw [exec, execSetdetPoll, setDetPoll, writeIntsrs_of_nack wf _ nack]
    rfl

end Sys2Proof.Machine
end

section
/-! SUPPORT. The getters, SETDLY, and the end of delivery: DISABLE, and what a block that owes no pass and holds no line
makes of the events offered to it (R151, R152, R247, R248). -/

namespace Sys2Proof.Machine

/-! ### Getters (R17, R77) -/

theorem commandEnds_done (v : Word) (s : State) : commandEnds (.done v s) = .next { s with status := 0, result := v } :=
  rfl

theorem twoBitResult_eq (hi lo : Bool) : twoBitResult hi lo = (if hi then 2 else 0) + if lo then 1 else 0 := by
  cases hi <;> cases lo <;> rfl

/-- Settles O17: each getter is the completion with its element, and two elements are read through their codes. -/
theorem gettersReturnTheirElement : Obligations.GettersReturnTheirElement := by
  refine ⟨⟨decode_encode .getzone, decode_encode .getth, decode_encode .gettl, decode_encode .getpol,
    decode_encode .geten, decode_encode .getdly, decode_encode .getdbg, decode_encode .getref, decode_encode .getcalst,
    decode_encode .getshadowOpf, decode_encode .getshadowIntsrs⟩,
    fun s => ⟨?zone, rfl, rfl, rfl, rfl, rfl, rfl, rfl, ?calst, rfl, rfl⟩⟩
  case zone =>
    rw [exec, execGetzone, commandEnds_done]
    cases s.lastZone <;> rfl
  case calst => rw [exec, execGetcalst, commandEnds_done, twoBitResult_eq]

/-! ### The delay (R152) -/

theorem clampDelay_toNat (c : Config) (ms : Half) : (clampDelay c ms).toNat = max ms.toNat c.delayMin.toNat := by
  unfold clampDelay
  split
  · rw [max_eq_right (BitVec.lt_def.mp ‹_›).le]
  · rw [max_eq_left (BitVec.le_def.mp (BitVec.not_lt.mp ‹_›))]

/-- Settles O33: the delay stored is the clamped one, and the two cases are those of `reschedule`. -/
theorem setDelayCommand : Obligations.SetDelayCommand := by
  refine fun ms => ⟨decode_encode (.setdly ms), fun s => ⟨clampDelay s.cfg ms, clampDelay_toNat s.cfg ms, ?_⟩⟩
  rw [exec, execSetdly, commandEnds_done, setDelay, reschedule]
  split
  · simp [State.schedule, State.cancelAndWait, State.emit]
  · rfl

/-! ### ENABLE and DISABLE where there is nothing to do, and the transition of DISABLE (R150, R151) -/

theorem exec_enable_of_disabled {s : State} (disabled : s.enabled = false) :
    exec .enable s = commandEnds (enableTransition s).noResult := by
  rw [exec, execEnable, if_neg (by simp [disabled])]

theorem exec_disable_of_enabled {s : State} (enabled : s.enabled = true) :
    exec .disable s = commandEnds (disableTransition s).noResult := by
  rw [exec, execDisable, if_pos enabled]

/-- Settles O27. -/
theorem enableAndDisableAreIdempotent : Obligations.EnableAndDisableAreIdempotent := by
  refine fun s => ⟨fun enabled => ?_, fun disabled => ?_⟩
  · rw [exec, execEnable, if_pos enabled]
    rfl
  · rw [exec, execDisable, if_neg (by simp [disabled])]
    rfl

/-- Settles O31: the transition is `setModePd` of the state with the slot cleared. -/
theorem disableCommand : Obligations.DisableCommand := by
  refine ⟨decode_encode .disable, fun s wf enabled => ⟨fun ack => ?_, fun nack => ?_⟩⟩
  · rw [exec_disable_of_enabled enabled, disableTransition, setModePd_of_ack (s := s.cancelAndWait) wf ack]
    rfl
  · rw [exec_disable_of_enabled enabled, disableTransition, setModePd_of_nack (s := s.cancelAndWait) wf nack]
    rfl

/-! ### A block at rest (R247, R248) -/

/-- The block is alive, owes no pass and holds no line: neither a worker start nor an edge is enabled. -/
structure AtRest (s : State) : Prop where
  alive : s.alive = true
  pending : s.pending = false
  line : s.irqAttached = false

/-- The elements that a write to a register may change (R56). -/
def shadowElements (_ : Config) (x : Element) : Prop := x ∈ [.opf, .intsrs]

theorem writeOpf_keeps_atRest {v : Byte} {s : State} (h : AtRest s) : AtRest (writeOpf v s).state := by
  have shadows : ChangesOnly shadowElements s (writeOpf v s).state :=
    (ChangesOnly.keptByBus shadowElements).writeOpf
      (fun _ _ _ => ⟨fun _ => by simp [shadowElements], fun _ => by simp [shadowElements]⟩) v s
  have alive := shadows.same .alive (by simp [shadowElements])
  have pending := shadows.same .pending (by simp [shadowElements])
  obtain ⟨line, -⟩ := shadows.same .line (by simp [shadowElements])
  exact ⟨Eq.trans alive h.alive, Eq.trans pending h.pending, Eq.trans line h.line⟩

/-- A DISABLE that ends OK leaves the block at rest: its slot is cleared and its line released before the write (R151). -/
theorem disable_leaves_atRest {s t : State} (alive : s.alive = true) (enabled : s.enabled = true)
    (h : exec .disable s = .next t) (ok : t.status = 0) : AtRest t := by
  have released : AtRest (setModePd s.cancelAndWait).state := by
    rw [setModePd, detachIfAttached_eq]
    exact writeOpf_keeps_atRest ⟨alive, rfl, rfl⟩
  rw [exec_disable_of_enabled enabled, disableTransition] at h
  cases e : setModePd s.cancelAndWait with
  | done v u =>
    rw [e] at h released
    obtain rfl := Host.Outcome.next.inj h
    exact ⟨released.alive, released.pending, released.line⟩
  | raised x u =>
    rw [e] at h
    obtain rfl := Host.Outcome.next.inj h
    exact absurd ok x.code_ne_zero

/-- An event that is not enabled is offered and not taken (R247, R248). -/
theorem step_atRest {s : State} {e : Event} {rest : List Event} (h : AtRest s) (offered : s.env.events = e :: rest)
    (he : e = .workerRun ∨ e = .irqEdge) : step s = .next { s with env := { s.env with events := rest } } := by
  have drop : s.dropEvent = { s with env := { s.env with events := rest } } := by
    simp [State.dropEvent, Env.popEvent, offered]
  have event : s.env.event = e := by simp [Env.event, offered]
  rw [step_alive h.alive, event, drop]
  rcases he with rfl | rfl
  · rw [takeEvent, if_neg (by simp [h.pending])]
  · rw [takeEvent, if_neg (by simp [h.line])]

theorem run_succ_of_next {M : Host.Core} {s t : M.State} (n : Nat) (h : M.step s = .next t) :
    M.run (n + 1) s = M.run n t := by
  rw [Host.Core.run, h]

theorem run_atRest {rest : List Event} (es : List Event) {s : State} (h : AtRest s) (offered : s.env.events = es ++ rest)
    (hes : ∀ e ∈ es, e = .workerRun ∨ e = .irqEdge) :
    Sys2Proof.core.run es.length s = .next { s with env := { s.env with events := rest } } := by
  induction es generalizing s with
  | nil =>
    obtain rfl : s.env.events = rest := offered
    rfl
  | cons e es ih =>
    refine (run_succ_of_next (M := Sys2Proof.core) es.length (step_atRest h offered (hes e List.mem_cons_self))).trans ?_
    exact ih ⟨h.alive, h.pending, h.line⟩ rfl fun x hx => hes x (List.mem_cons_of_mem _ hx)

/-- Settles O32: a successful DISABLE leaves the block at rest, and no run of the two events moves it from there. -/
theorem nothingHappensAfterDisable : Obligations.NothingHappensAfterDisable :=
  fun _ _ es _ alive enabled h ok offered hes => run_atRest es (disable_leaves_atRest alive enabled h ok) offered hes

end Sys2Proof.Machine
end

section
/-! SUPPORT. ENABLE (R150): its detection and mode steps, the sample pass it forces in interrupt mode, and the ways in
which either can fail. -/

namespace Sys2Proof.Machine

/-! ### Listed answers (R54, R143) -/

theorem Env.ack_listed {e : Env} {a : Bool} {rest : List Bool} (h : e.acks = a :: rest) :
    e.ack = a ∧ e.popAck = { e with acks := rest } := by
  simp [Env.ack, Env.popAck, h]

theorem Env.grant_listed {e : Env} {g : Option Handle} {rest : List (Option Handle)} (h : e.grants = g :: rest) :
    e.grant = g ∧ e.popGrant = { e with grants := rest } := by
  simp [Env.grant, Env.popGrant, h]

/-- The answer to one transaction among acknowledgements of those before it and after it. -/
theorem replicate_through (m n : Nat) (rest : List Bool) : List.replicate (m + 1 + n) true ++ rest =
    List.replicate m true ++ true :: (List.replicate n true ++ rest) := by
  rw [List.replicate_add, List.replicate_succ', List.append_assoc, List.append_assoc]
  rfl

/-! ### The sample pass in interrupt mode, by the answers to its read (R190) -/

section
variable {s : State} {b bytes : List Byte} {acks : List Bool} (wf : s.cfg.wf = true)
include wf

theorem passBody_of_nacked_read (answers : s.env.acks = false :: acks) : passBody s = .raised .transport { s with
    env := { s.env with acks := acks }
    trace := s.trace ++ [.busRead s.cfg.sampleAddr s.cfg.sampleLen none] } := by
  rw [passBody, readSample_nacked s acks wf answers, Res.andThen_raised]

section
variable (answers : s.env.acks = true :: acks) (read : s.env.bytes = b ++ bytes)
include answers read

theorem passBody_of_stale_sample (length : b.length = s.cfg.sampleLen) (stale : freshSample s.cfg b = false) :
    passBody s = .raised .notReady (s.afterSample b acks bytes) := by
  rw [passBody, readSample_answered s b acks bytes wf length answers read, stale]
  rfl

/-- From a fresh sample on, the pass classifies and publishes, and then makes the writes for the zone it found. -/
theorem passBody_of_fresh_sample (fresh : freshSample s.cfg b = true) (interrupt : det s.cfg s.intsrs = .interrupt) :
    let raw := sampleValue s.cfg (resolution s.cfg s.opf) b
    let t := classifySample raw (s.afterSample b acks bytes)
    passBody s = memWrites (reprogramWrites t (s.classify raw)) t := by
  intro raw t
  have type : det t.cfg t.intsrs = .interrupt := interrupt
  rw [passBody, readSample_answered s b acks bytes wf (freshSample_length fresh) answers read, if_pos fresh,
    Res.andThen_done, passOnSample, reprogram, if_pos type]
  exact reprogramming_eq (s := t) wf _

end
end

theorem rearm_of_disabled {s : State} (disabled : s.enabled = false) : rearm s = s :=
  if_neg (by simp [disabled])

/-! ### The detection step (R145, R146) -/

/-- The state after ENABLE's detection step, all of whose writes were acknowledged. -/
def State.detected (s : State) (acks : List Bool) : State :=
  { s with intsrs := detectedIntsrs s, env := { s.env with acks := acks }
           trace := s.trace ++ acknowledged (detectionWrites s) }

/-- The state in which the forced pass begins, with what the environment still has to say. -/
def State.forced (s : State) (h : Handle) (acks : List Bool) (grants : List (Option Handle)) : State :=
  { beforeForcedPass s h with
    env := { s.env with acks := acks, grants := if s.irqAttached then s.env.grants else grants } }

section
variable {s : State} {acks : List Bool} (wf : s.cfg.wf = true)
include wf

/-- The mode step in interrupt mode: the line is held afterwards, requested only where none was attached (R141). -/
theorem setModeMeas_of_detected {h : Handle} {grants : List (Option Handle)} (interrupt : det s.cfg s.intsrs = .interrupt)
    (granted : s.irqAttached = false → s.env.grants = some h :: grants) :
    setModeMeas (s.detected (true :: acks)) = .done () { s.forced h acks grants with
      trace := s.trace ++ acknowledged (detectionWrites s) ++ [.busWrite s.cfg.addrOpf [measuringOpf s] true] ++
        if s.irqAttached then [] else [requestEvent s (some h)] } := by
  obtain ⟨ack, pop⟩ := Env.ack_listed (e := (s.detected (true :: acks)).env) rfl
  cases line : s.irqAttached with
  | true =>
    rw [setModeMeas_unasked (s := s.detected (true :: acks)) wf ack (by simp [State.detected, line]), pop]
    simp [State.forced, beforeForcedPass, State.detected, measuringOpf, line]
  | false =>
    have still : det s.cfg (detectedIntsrs s) = .interrupt := (det_detectedIntsrs wf).trans interrupt
    obtain ⟨grant, popGrant⟩ := Env.grant_listed (e := { s.env with acks := acks }) (granted line)
    rw [setModeMeas_granted (s := s.detected (true :: acks)) wf ack ⟨still, line⟩ (h := h) (by rw [pop]; exact grant),
      pop]
    simp [State.forced, beforeForcedPass, State.detected, measuringOpf, line, requestEvent, popGrant]

variable (disabled : s.enabled = false)
include disabled

/-- A detection step that succeeds leaves the mode and delivery steps to be done. -/
theorem exec_enable_of_detected (answers : s.env.acks = List.replicate (detectionWrites s).length true ++ acks) :
    exec .enable s = commandEnds ((setModeMeas (s.detected acks)).andThen fun _ t =>
      .done () { startDelivery t with enabled := true }).noResult := by
  rw [exec_enable_of_disabled disabled, enableTransition, setDetCurrent_eq wf,
    memWrites_away_acked wf (detectionWrites_away wf) answers, lastWritten_detectionWrites]
  rfl

theorem exec_enable_of_stopped_detection {k : Nat} (hk : k < (detectionWrites s).length)
    (answers : s.env.acks = List.replicate k true ++ false :: acks) : exec .enable s = .next { s with
      intsrs := lastWritten s.cfg.addrIntsrs s.intsrs (stoppedAt k (detectionWrites s))
      status := 1, result := 0, env := { s.env with acks := acks }
      trace := s.trace ++ stoppedAt k (detectionWrites s) } := by
  rw [exec_enable_of_disabled disabled, enableTransition, setDetCurrent_eq wf,
    memWrites_away_stopped wf (detectionWrites_away wf) hk answers]
  rfl

/-- Where both steps succeed in interrupt mode and the line is granted if it is requested, ENABLE completes whatever the
forced pass does. -/
theorem exec_enable_of_forced_pass {h : Handle} {grants : List (Option Handle)}
    (interrupt : det s.cfg s.intsrs = .interrupt) (granted : s.irqAttached = false → s.env.grants = some h :: grants)
    (answers : s.env.acks = List.replicate ((detectionWrites s).length + 1) true ++ acks) :
    exec .enable s = .next { samplePass (s.forced h acks grants) with enabled := true, status := 0, result := 0 } := by
  have still : det s.cfg (detectedIntsrs s) = .interrupt := (det_detectedIntsrs wf).trans interrupt
  rw [exec_enable_of_detected (acks := true :: acks) wf disabled (answers.trans (replicate_through _ 0 _)),
    setModeMeas_of_detected wf interrupt granted, Res.andThen_done, startDelivery,
    if_neg (by simp [State.forced, beforeForcedPass, still])]
  rfl

end

/-- Settles O28: both steps of ENABLE in polling mode, and the schedule of its delivery step. -/
theorem enableStartsPolling : Obligations.EnableStartsPolling := by
  refine ⟨decode_encode .enable, fun s rest wf disabled polling answers => ?_⟩
  have writes : detectionWrites s = [(s.cfg.addrIntsrs, s.intsrs &&& ~~~s.cfg.intsrsDet)] := by
    rw [detectionWrites, polling]
  have after : det s.cfg (detectedIntsrs s) = .polling := (det_detectedIntsrs wf).trans polling
  obtain ⟨ack, pop⟩ := Env.ack_listed (e := (s.detected (true :: rest)).env) rfl
  rw [exec_enable_of_detected (acks := true :: rest) wf disabled (by rw [writes]; exact answers),
    setModeMeas_unasked (s := s.detected (true :: rest)) wf ack (by simp [State.detected, after]), pop, Res.andThen_done,
    startDelivery, if_pos (by exact after)]
  simp only [State.detected, State.schedule, State.emit, writes, detectedIntsrs, polling, List.append_assoc]
  rfl

/-! ### What the forced pass leaves -/

/-- The state in which the forced pass has classified and published the sample `b`. -/
def State.forcedSample (s : State) (h : Handle) (b : List Byte) (acks : List Bool) (bytes : List Byte)
    (grants : List (Option Handle)) : State :=
  classifySample (sampleValue s.cfg (resolution s.cfg s.opf) b) ((s.forced h acks grants).afterSample b acks bytes)

section
variable {s : State} {h : Handle} {b bytes : List Byte} {acks : List Bool} {grants : List (Option Handle)}
  (wf : s.cfg.wf = true)
include wf

theorem passBody_forced_of_fresh_sample (read : s.env.bytes = b ++ bytes) (fresh : freshSample s.cfg b = true)
    (interrupt : det s.cfg s.intsrs = .interrupt) :
    passBody (s.forced h (true :: acks) grants) = memWrites (reprogramWrites (beforeForcedPass s h)
      (s.classify (sampleValue s.cfg (resolution s.cfg s.opf) b))) (s.forcedSample h b acks bytes grants) := by
  rw [passBody_of_fresh_sample (s := s.forced h (true :: acks) grants) wf rfl read fresh
    ((det_detectedIntsrs wf).trans interrupt)]
  have kept : resolution (s.forced h (true :: acks) grants).cfg (s.forced h (true :: acks) grants).opf =
    resolution s.cfg s.opf := resolution_measuringOpf wf
  rw [kept]
  rfl

variable (disabled : s.enabled = false)
include disabled

theorem samplePass_forced_of_nacked_read : samplePass (s.forced h (false :: acks) grants) = { s.forced h acks grants with
    trace := (beforeForcedPass s h).trace ++ [.busRead s.cfg.sampleAddr s.cfg.sampleLen none, .log 1] } := by
  rw [samplePass, passBody_of_nacked_read (s := s.forced h (false :: acks) grants) wf rfl, logFailure,
    rearm_of_disabled (by exact disabled)]
  simp [State.forced, State.log, State.emit, beforeForcedPass, Err.code]

section
variable (read : s.env.bytes = b ++ bytes)
include read

theorem samplePass_forced_of_stale_sample (length : b.length = s.cfg.sampleLen) (stale : freshSample s.cfg b = false) :
    samplePass (s.forced h (true :: acks) grants) = { s.forced h acks grants with
      env := { (s.forced h acks grants).env with bytes := bytes }
      trace := (beforeForcedPass s h).trace ++ [.busRead s.cfg.sampleAddr s.cfg.sampleLen (some b), .log 4] } := by
  rw [samplePass, passBody_of_stale_sample (s := s.forced h (true :: acks) grants) wf rfl read length stale, logFailure,
    rearm_of_disabled (by exact disabled)]
  simp [State.forced, State.log, State.emit, State.afterSample, beforeForcedPass, Err.code]

variable (fresh : freshSample s.cfg b = true) (interrupt : det s.cfg s.intsrs = .interrupt)
include fresh interrupt

theorem samplePass_forced_of_acked_writes {z : Zone}
    (zone : z = s.classify (sampleValue s.cfg (resolution s.cfg s.opf) b)) :
    samplePass (s.forced h (true :: (List.replicate (reprogramWrites (beforeForcedPass s h) z).length true ++ acks))
      grants) = { s.forcedSample h b acks bytes grants with
        intsrs := intsrsFor (beforeForcedPass s h) z
        trace := (s.forcedSample h b acks bytes grants).trace ++
          acknowledged (reprogramWrites (beforeForcedPass s h) z) } := by
  subst zone
  rw [samplePass, passBody_forced_of_fresh_sample wf read fresh interrupt,
    memWrites_away_acked (s := s.forcedSample h b _ bytes grants) (rest := acks) wf
      (reprogramWrites_away (s := beforeForcedPass s h) wf _) rfl, logFailure, rearm_of_disabled (by exact disabled)]
  rw [← lastWritten_reprogramWrites (s := beforeForcedPass s h) wf]
  rfl

theorem samplePass_forced_of_stopped_writes {z : Zone} {k : Nat}
    (zone : z = s.classify (sampleValue s.cfg (resolution s.cfg s.opf) b))
    (hk : k < (reprogramWrites (beforeForcedPass s h) z).length) :
    samplePass (s.forced h (true :: (List.replicate k true ++ false :: acks)) grants) =
      { s.forcedSample h b acks bytes grants with
        intsrs := lastWritten s.cfg.addrIntsrs (beforeForcedPass s h).intsrs
          (stoppedAt k (reprogramWrites (beforeForcedPass s h) z))
        trace := (s.forcedSample h b acks bytes grants).trace ++
          stoppedAt k (reprogramWrites (beforeForcedPass s h) z) ++ [.log 1] } := by
  subst zone
  rw [samplePass, passBody_forced_of_fresh_sample wf read fresh interrupt,
    memWrites_away_stopped (s := s.forcedSample h b _ bytes grants) (rest := acks) wf
      (reprogramWrites_away (s := beforeForcedPass s h) wf _) hk rfl, logFailure, rearm_of_disabled (by exact disabled)]
  rfl

end
end

/-- Settles O29: ENABLE completes with its forced pass, and the pass writes everything its sample's zone asks for. -/
theorem enableForcesOnePass : Obligations.EnableForcesOnePass := by
  intro s acks b bytes h grants wf disabled interrupt fresh raw z s1 ws answers read granted
  rw [exec_enable_of_forced_pass wf disabled interrupt granted (answers.trans (replicate_through _ _ _)),
    samplePass_forced_of_acked_writes wf disabled read fresh interrupt rfl]
  simp only [State.forcedSample, classifySample, State.publish, State.emit, State.afterSample, List.append_assoc]
  rfl

/-- Settles O55: ENABLE completes with its forced pass, which ends at a failed read, a stale sample or a failed write. -/
theorem enableSurvivesAFailedPass : Obligations.EnableSurvivesAFailedPass := by
  intro s acks b bytes h grants wf disabled interrupt granted raw z s1 ws n left
  refine ⟨fun answers => ?_, fun answers read length stale => ?_, fun k hk answers read fresh => ?_⟩
  · rw [exec_enable_of_forced_pass wf disabled interrupt granted answers, samplePass_forced_of_nacked_read wf disabled]
    rfl
  · rw [exec_enable_of_forced_pass wf disabled interrupt granted answers,
      samplePass_forced_of_stale_sample wf disabled read length stale]
    rfl
  · rw [exec_enable_of_forced_pass wf disabled interrupt granted (answers.trans (replicate_through _ _ _)),
      samplePass_forced_of_stopped_writes wf disabled read fresh interrupt rfl hk]
    simp only [State.forcedSample, classifySample, State.publish, State.emit, State.afterSample, List.append_assoc]
    rfl

/-! ### An ENABLE that reports an error (R150, R243) -/

/-- Neither the lifecycle state nor the slot nor the zone has changed, and nothing was published. -/
structure StartsNothing (s t : State) : Prop where
  cfg : t.cfg = s.cfg
  enabled : t.enabled = s.enabled
  pending : t.pending = s.pending
  lastZone : t.lastZone = s.lastZone
  unpublished : ∃ new, t.trace = s.trace ++ new ∧ published new = []

theorem published_append (xs ys : List Emitted) : published (xs ++ ys) = published xs ++ published ys := by
  fun_induction published xs with
  | case1 => rfl
  | case2 v xs ih => rw [List.cons_append, published, ih, List.cons_append]
  | case3 x xs other ih =>
    rw [List.cons_append, published]
    · exact ih
    · exact other

theorem StartsNothing.silent {s t : State} (cfg : t.cfg = s.cfg := by rfl) (enabled : t.enabled = s.enabled := by rfl)
    (pending : t.pending = s.pending := by rfl) (lastZone : t.lastZone = s.lastZone := by rfl)
    (trace : t.trace = s.trace := by rfl) : StartsNothing s t :=
  ⟨cfg, enabled, pending, lastZone, [], by simp [trace], rfl⟩

theorem StartsNothing.trans {s t u : State} (h : StartsNothing s t) (h' : StartsNothing t u) : StartsNothing s u := by
  obtain ⟨cfg, enabled, pending, lastZone, new, trace, none⟩ := h
  obtain ⟨cfg', enabled', pending', lastZone', new', trace', none'⟩ := h'
  refine ⟨cfg'.trans cfg, enabled'.trans enabled, pending'.trans pending, lastZone'.trans lastZone, new ++ new', ?_, ?_⟩
  · rw [trace', trace, List.append_assoc]
  · rw [published_append, none, none', List.append_nil]

theorem startsNothing_kept : KeptByLine (fun _ _ => True) StartsNothing where
  cfg := StartsNothing.cfg
  refl _ := .silent
  trans := .trans
  env _ _ := .silent
  quiet _ x quiet _ := by
    refine ⟨rfl, rfl, rfl, rfl, [x], rfl, ?_⟩
    cases x with
    | publish v => cases quiet
    | _ => rfl
  write _ a p _ := ⟨rfl, rfl, rfl, rfl, [.busWrite a p true], rfl, rfl⟩
  attach _ _ := .silent
  detach _ := .silent

/-- The two steps of ENABLE that can raise, and then its delivery step, which cannot (R150). -/
theorem enableTransition_eq (s : State) : enableTransition s =
    ((setDetCurrent s).andThen fun _ t => setModeMeas t).andThen fun _ t =>
      .done () { startDelivery t with enabled := true } := by
  rw [Res.andThen_assoc]
  rfl

theorem enableTransition_raised {s t : State} {e : Err} (h : enableTransition s = .raised e t) : StartsNothing s t := by
  have steps : StartsNothing s ((setDetCurrent s).andThen fun _ u => setModeMeas u).state :=
    startsNothing_kept.andThen (startsNothing_kept.setDetCurrent (fun _ _ _ => trivial) (fun _ _ _ => trivial) s)
      fun _ u _ => startsNothing_kept.setModeMeas (fun _ _ _ => trivial) u
  rw [enableTransition_eq] at h
  cases r : (setDetCurrent s).andThen fun _ u => setModeMeas u with
  | done v u => rw [r] at h; cases h
  | raised x u => rw [r] at h steps; cases h; exact steps

theorem enableTransition_done {s t : State} (h : enableTransition s = .done () t) : t.enabled = true := by
  rw [enableTransition_eq] at h
  obtain ⟨_, u, -, e⟩ := Res.andThen_eq_done h
  cases e
  rfl

/-- Settles O30: what raises is one of the two steps before the delivery step, and each of the three causes is a failure
of the detection writes, of the OPF write or of the line request. -/
theorem failedEnableLeavesBlockDisabled : Obligations.FailedEnableLeavesBlockDisabled := by
  refine ⟨fun s t disabled h => ?_, fun s acks grants wf disabled => ⟨fun k hk answers => ?_, fun answers => ?_,
    fun answers interrupt free offered => ?_⟩⟩
  · rw [exec_enable_of_disabled disabled] at h
    cases e : enableTransition s with
    | done v u =>
      rw [e] at h
      obtain rfl := Host.Outcome.next.inj h
      have enabled : u.enabled = true := enableTransition_done e
      exact .inl ⟨rfl, enabled⟩
    | raised x u =>
      have cause : x = .transport ∨ x = .interruptAttach :=
        enableTransition_raisesOnly (may := fun x => x = .transport ∨ x = .interruptAttach) (.inl rfl) (.inr rfl) s x u e
      obtain ⟨-, enabled, pending, lastZone, unpublished⟩ := enableTransition_raised e
      rw [e] at h
      obtain rfl := Host.Outcome.next.inj h
      refine .inr ⟨?_, rfl, enabled.trans disabled, pending, lastZone, unpublished⟩
      exact cause.imp (congrArg Err.code) (congrArg Err.code)
  · exact exec_enable_of_stopped_detection wf disabled hk answers
  · obtain ⟨nack, pop⟩ := Env.ack_listed (e := (s.detected (false :: acks)).env) rfl
    rw [exec_enable_of_detected wf disabled answers, setModeMeas_of_nack (s := s.detected (false :: acks)) wf nack, pop]
    rfl
  · obtain ⟨ack, pop⟩ := Env.ack_listed (e := (s.detected (true :: acks)).env) rfl
    obtain ⟨refused, popGrant⟩ := Env.grant_listed (e := { s.env with acks := acks }) offered
    have still : det s.cfg (detectedIntsrs s) = .interrupt := (det_detectedIntsrs wf).trans interrupt
    rw [exec_enable_of_detected (acks := true :: acks) wf disabled (answers.trans (replicate_through _ 0 _)),
      setModeMeas_refused (s := s.detected (true :: acks)) wf ack ⟨still, free⟩ (by rw [pop]; exact refused), pop]
    simp only [State.detected, popGrant, List.append_assoc]
    rfl

end Sys2Proof.Machine
end

section
/-! SUPPORT. The classifier and its commands (R180, R191 to R198): when a reading is in zone B, what the setters store, and
the threshold update as a sequence of writes that reach neither shadowed register (R182, R192). -/

namespace Sys2Proof.Machine

/-! ### The zones (R180) -/

/-- Zone B is the open interval between the thresholds, whatever the polarity. -/
theorem classify_eq_b_iff (raw th tl pol : Int) : classify raw th tl pol = .b ↔ tl < raw ∧ raw < th := by
  unfold classify
  split_ifs <;> simp only [false_iff, true_iff] <;> omega

/-- Of the polarity only its being positive matters (R35). -/
theorem classify_congr_pol {p q : Int} (sign : 0 < p ↔ 0 < q) (raw th tl : Int) :
    classify raw th tl p = classify raw th tl q := by
  simp only [classify, sign]

/-- Settles O15: crossed thresholds leave no room for zone B, and a gap has room for the number above the low one. -/
theorem zoneBNeedsAGapBetweenThresholds : Obligations.ZoneBNeedsAGapBetweenThresholds := by
  refine fun s => ⟨fun crossed raw inB => ?_, fun gap => ⟨s.tl.toInt + 1, ?_⟩,
    fun p sign raw => classify_congr_pol sign raw _ _⟩
  · obtain ⟨above, below⟩ := (classify_eq_b_iff _ _ _ _).mp inB
    omega
  · exact (classify_eq_b_iff _ _ _ _).mpr ⟨by omega, gap⟩

/-! ### CLS and the setters (R191, R194, R196, R198, R157) -/

/-- Settles O14: the completion with the code of the zone, taken inside the comparisons of R180. -/
theorem classifyCommandResult : Obligations.ClassifyCommandResult := by
  refine fun raw => ⟨decode_encode (.cls raw), fun s => ?_⟩
  rw [exec, execCls, commandEnds_done, State.classify, classify]
  simp only [apply_ite zoneResult]
  rfl

/-- Settles O18: each setter is the completion of the state with its operand stored. -/
theorem settersStoreTheirOperand : Obligations.SettersStoreTheirOperand :=
  fun _ v b => ⟨⟨decode_encode (.setth v), rfl⟩, ⟨decode_encode (.settl v), rfl⟩, ⟨decode_encode (.setpol v), rfl⟩,
    ⟨decode_encode (.setdbg b), rfl⟩⟩

/-! ### The threshold update (R182, R192) -/

section
variable {s : State} {rest : List Bool} (wf : s.cfg.wf = true)
include wf

theorem programmingWrites_away (t : IrqType) :
    ∀ w ∈ programmingWrites s t, w.1 ≠ s.cfg.addrOpf ∧ w.1 ≠ s.cfg.addrSrst := fun w hw =>
  have ⟨opf, _, srst⟩ := programmingWrites_elsewhere wf t w hw
  ⟨opf, srst⟩

theorem updateThresholds_acked (acks : s.env.acks = List.replicate 5 true ++ rest) :
    updateThresholds s = .done () { s with
      env := { s.env with acks := rest }
      trace := s.trace ++ acknowledged (programmingWrites s (irqType s.cfg s.intsrs)) } := by
  rw [updateThresholds_eq, memWrites_away_acked wf (programmingWrites_away wf _) acks,
    lastWritten_elsewhere _ _ _ fun w hw => (programmingWrites_elsewhere wf _ w hw).2.1]

theorem updateThresholds_stopped {k : Nat} (hk : k < 5) (acks : s.env.acks = List.replicate k true ++ false :: rest) :
    updateThresholds s = .raised .transport { s with
      env := { s.env with acks := rest }
      trace := s.trace ++ stoppedAt k (programmingWrites s (irqType s.cfg s.intsrs)) } := by
  rw [updateThresholds_eq, memWrites_away_stopped wf (programmingWrites_away wf _) hk acks, lastWritten_stoppedAt,
    lastWritten_elsewhere _ _ _ fun w hw => (programmingWrites_elsewhere wf _ w (List.mem_of_mem_take hw)).2.1]

end

/-- Settles O16, by the answers of the bus to the five writes. -/
theorem thresholdUpdateWrites : Obligations.ThresholdUpdateWrites := by
  refine ⟨decode_encode .updthr, fun s rest wf => ⟨fun acks => ?_, fun k hk acks => ?_⟩⟩
  · rw [exec, execUpdthr, updateThresholds_acked wf acks]
    rfl
  · rw [exec, execUpdthr, updateThresholds_stopped wf hk acks]
    rfl

end Sys2Proof.Machine
end

section
/-! SUPPORT. The worker run (R190, R247): the step that takes it is a sample pass of the state with the slot cleared, and
the pass by the answers to its read and its writes, in either detection mode. -/

namespace Sys2Proof.Machine

/-! ### The step (R247) -/

/-- The state in which a worker run's pass begins: the event is offered and the slot is clear. -/
def State.passStart (s : State) (events : List Event) : State :=
  { s with pending := false, env := { s.env with events := events } }

theorem step_workerRun {s : State} {events : List Event} (alive : s.alive = true) (pending : s.pending = true)
    (offered : s.env.events = .workerRun :: events) : step s = .next (samplePass (s.passStart events)) := by
  have event : s.env.event = .workerRun := by simp [Env.event, offered]
  have drop : s.dropEvent = { s with env := { s.env with events := events } } := by
    simp [State.dropEvent, Env.popEvent, offered]
  rw [step_alive alive, event, drop, takeEvent, if_pos (by exact pending)]
  rfl

/-! ### The slot after a pass (R190) -/

/-- After a pass that began with the slot clear, the slot is armed exactly on an enabled block in polling mode. -/
theorem rearm_of_clear {s : State} (clear : s.pending = false) : rearm s = { s with
    pending := decide (s.enabled = true ∧ det s.cfg s.intsrs = .polling)
    trace := s.trace ++
      if s.enabled = true ∧ det s.cfg s.intsrs = .polling then [.schedule s.delay.toNat] else [] } := by
  unfold rearm
  split
  case isTrue again => simp only [State.schedule, State.emit, again, and_self, decide_true]
  case isFalse idle =>
    rw [decide_eq_false idle, List.append_nil, ← clear]

theorem rearm_of_polling {s : State} (clear : s.pending = false) (polling : det s.cfg s.intsrs = .polling) :
    rearm s = { s with
      pending := s.enabled, trace := s.trace ++ if s.enabled then [.schedule s.delay.toNat] else [] } := by
  rw [rearm_of_clear clear]
  simp only [polling, and_true, Bool.decide_eq_true]

theorem rearm_of_interrupt {s : State} (interrupt : det s.cfg s.intsrs = .interrupt) : rearm s = s :=
  if_neg (by simp [interrupt])

/-! ### The pass up to its publication (R183, R184, R190) -/

/-- The number the sample `b` holds, at the resolution in force. -/
def State.reading (s : State) (b : List Byte) : Int := sampleValue s.cfg (resolution s.cfg s.opf) b

/-- The state in which a pass has classified and published the sample `b`. -/
def State.sampled (s : State) (b : List Byte) (acks : List Bool) (bytes : List Byte) : State :=
  { s with
    lastZone := s.classify (s.reading b), env := { s.env with acks := acks, bytes := bytes }
    trace := s.trace ++ [.busRead s.cfg.sampleAddr s.cfg.sampleLen (some b),
      .publish (sinkValue s.cfg (s.reading b) (s.classify (s.reading b)))] }

theorem classifySample_afterSample (s : State) (b : List Byte) (acks : List Bool) (bytes : List Byte) :
    classifySample (s.reading b) (s.afterSample b acks bytes) = s.sampled b acks bytes := by
  simp only [classifySample, State.publish, State.emit, State.afterSample, List.append_assoc]
  rfl

section
variable {s : State} {b bytes : List Byte} {acks : List Bool} (wf : s.cfg.wf = true)
  (answers : s.env.acks = true :: acks) (read : s.env.bytes = b ++ bytes) (fresh : freshSample s.cfg b = true)
include wf answers read fresh

theorem passBody_of_polling (polling : det s.cfg s.intsrs = .polling) :
    passBody s = .done () (s.sampled b acks bytes) := by
  rw [passBody, readSample_answered s b acks bytes wf (freshSample_length fresh) answers read, if_pos fresh,
    Res.andThen_done, passOnSample, ← State.reading, classifySample_afterSample, reprogram]
  exact if_neg (by simp [State.sampled, polling])

theorem passBody_of_interrupt (interrupt : det s.cfg s.intsrs = .interrupt) : passBody s =
    memWrites (reprogramWrites s (s.classify (s.reading b))) (s.sampled b acks bytes) := by
  rw [passBody_of_fresh_sample wf answers read fresh interrupt, ← State.reading, classifySample_afterSample]
  rfl

end

/-- Settles O38: the pass ends with the publication, and the slot is armed as the block is enabled. -/
theorem workerRunInPollingMode : Obligations.WorkerRunInPollingMode := by
  intro s events acks b bytes wf alive pending polling offered answers read fresh raw
  rw [step_workerRun alive pending offered, samplePass,
    passBody_of_polling (s := s.passStart events) wf answers read fresh polling, logFailure,
    rearm_of_polling rfl (by exact polling)]
  rfl

/-! ### Interrupt mode: the reprogramming keeps the detection mode (R181, R190) -/

/-- A register's shadow, after writes that each leave it with a property, has that property. -/
theorem lastWritten_induction {P : Byte → Prop} {reg : Byte} {ws : List (Byte × Byte)} {old : Byte} (before : P old)
    (each : ∀ w ∈ ws, w.1 = reg → P w.2) : P (lastWritten reg old (acknowledged ws)) := by
  induction ws generalizing old with
  | nil => exact before
  | cons w ws ih =>
    refine ih (old := if w.1 = reg then w.2 else old) ?_ fun x hx => each x (List.mem_cons_of_mem _ hx)
    split
    · exact each w List.mem_cons_self ‹_›
    · exact before

/-- The one INTSRS write of a reprogramming is that of the zone's type. -/
theorem intsrs_of_mem_reprogramWrites {s : State} (wf : s.cfg.wf = true) {z : Zone} {w : Byte × Byte}
    (hw : w ∈ reprogramWrites s z) (reg : w.1 = s.cfg.addrIntsrs) : w.2 = intsrsFor s z := by
  obtain hw | hw := List.mem_append.mp hw
  · split at hw
    · cases hw
    · obtain rfl := List.mem_singleton.mp hw
      rfl
  · exact absurd reg (programmingWrites_elsewhere wf _ w hw).2.1

/-- Wherever a reprogramming stops, the detection mode is the one in which it began. -/
theorem det_stopped_reprogramming {s : State} (wf : s.cfg.wf = true) (z : Zone) (k : Nat) :
    det s.cfg (lastWritten s.cfg.addrIntsrs s.intsrs (stoppedAt k (reprogramWrites s z))) = det s.cfg s.intsrs := by
  rw [lastWritten_stoppedAt]
  refine lastWritten_induction (P := fun r => det s.cfg r = det s.cfg s.intsrs) rfl fun w hw reg => ?_
  rw [intsrs_of_mem_reprogramWrites wf (List.mem_of_mem_take hw) reg]
  exact (intsrsFor_spec wf z).2

section
variable {s : State} {b bytes : List Byte} {acks : List Bool} (wf : s.cfg.wf = true)
  (interrupt : det s.cfg s.intsrs = .interrupt) (fresh : freshSample s.cfg b = true) (read : s.env.bytes = b ++ bytes)
include wf interrupt fresh read

theorem samplePass_of_acked_writes {z : Zone} (zone : s.classify (s.reading b) = z)
    (answers : s.env.acks = true :: (List.replicate (reprogramWrites s z).length true ++ acks)) :
    samplePass s = { s.sampled b acks bytes with
      intsrs := intsrsFor s z, trace := (s.sampled b acks bytes).trace ++ acknowledged (reprogramWrites s z) } := by
  have mode : det s.cfg (intsrsFor s z) = .interrupt := (intsrsFor_spec wf z).2.trans interrupt
  rw [← lastWritten_reprogramWrites wf] at mode ⊢
  rw [samplePass, passBody_of_interrupt wf answers read fresh interrupt, zone,
    memWrites_away_acked (s := s.sampled b _ bytes) wf (reprogramWrites_away wf z) rfl, logFailure,
    rearm_of_interrupt (by exact mode)]
  rfl

theorem samplePass_of_stopped_writes {z : Zone} (zone : s.classify (s.reading b) = z) {k : Nat}
    (hk : k < (reprogramWrites s z).length)
    (answers : s.env.acks = true :: (List.replicate k true ++ false :: acks)) :
    samplePass s = { s.sampled b acks bytes with
      intsrs := lastWritten s.cfg.addrIntsrs s.intsrs (stoppedAt k (reprogramWrites s z))
      trace := (s.sampled b acks bytes).trace ++ stoppedAt k (reprogramWrites s z) ++ [.log 1] } := by
  have mode := (det_stopped_reprogramming wf z k).trans interrupt
  rw [samplePass, passBody_of_interrupt wf answers read fresh interrupt, zone,
    memWrites_away_stopped (s := s.sampled b _ bytes) wf (reprogramWrites_away wf z) hk rfl, logFailure,
    rearm_of_interrupt (by exact mode)]
  rfl

end

/-- Settles O39: the pass makes every write of its zone, or ends at the first that is not acknowledged. -/
theorem workerRunInInterruptMode : Obligations.WorkerRunInInterruptMode := by
  intro s events acks b bytes wf alive pending interrupt fresh offered read raw z ws seen
  rw [step_workerRun alive pending offered]
  refine ⟨fun answers => ?_, fun k hk answers => ?_⟩
  · rw [samplePass_of_acked_writes (s := s.passStart events) (z := z) wf interrupt fresh read rfl
      (answers.trans (replicate_through 0 _ _))]
    rfl
  · rw [samplePass_of_stopped_writes (s := s.passStart events) (z := z) wf interrupt fresh read rfl hk
      (answers.trans (replicate_through 0 _ _))]
    rfl

/-! ### A read that fails (R190, R254, R262) -/

/-- Settles O40: the pass ends at its read, in either detection mode, and the slot is armed again where R190 asks. -/
theorem failedReadIsLoggedAndSkipped : Obligations.FailedReadIsLoggedAndSkipped := by
  intro s events acks b bytes wf alive pending offered again
  rw [step_workerRun alive pending offered, samplePass]
  refine ⟨fun answers => ?_, fun answers read length stale => ?_⟩
  · rw [passBody_of_nacked_read (s := s.passStart events) wf answers, logFailure, rearm_of_clear rfl]
    simp only [State.log, State.emit, List.append_assoc]
    rfl
  · rw [passBody_of_stale_sample (s := s.passStart events) wf answers read length stale, logFailure, rearm_of_clear rfl]
    simp only [State.log, State.emit, State.afterSample, List.append_assoc]
    rfl

end Sys2Proof.Machine
end

section
/-! SUPPORT. A calibration by the answers it meets: what its measuring leaves for the restore, and how the command then
ends (R210 to R216); and the thresholds taken from the reference (R219, R220). -/

namespace Sys2Proof.Machine

/-! ### The thresholds from the reference (R219, R220) -/

/-- Settles O37: each command completes with one of the two writes, and the s16 holding of a sum in range is the sum. -/
theorem thresholdFromReference : Obligations.ThresholdFromReference := by
  refine ⟨⟨decode_encode .calapply1, decode_encode .calapply2⟩, fun s => ⟨?pass1, ?pass2, toS16_toInt, toS16_toInt⟩⟩
  case pass1 =>
    rw [exec, execCalapply1, commandEnds_done]
    split <;> rfl
  case pass2 =>
    rw [exec, execCalapply2, commandEnds_done]
    split <;> rfl

/-! ### The mean (R211) -/

/-- A mean of numbers of the codec is a number of s16, so the reference holds exactly it. -/
theorem meanOf_eq {vs : List Int} {n : Nat} (hn : 1 ≤ n) (len : vs.length = n) (range : ∀ v ∈ vs, InSampleRange v) :
    meanOf vs n = BitVec.ofInt 16 (vs.sum.tdiv n) ∧ (BitVec.ofInt 16 (vs.sum.tdiv n)).toInt = vs.sum.tdiv n := by
  obtain ⟨low, high⟩ := truncDiv_sum_inSampleRange hn len range
  have fits : -32768 ≤ truncDiv vs.sum n ∧ truncDiv vs.sum n ≤ 32767 := by omega
  have holding : toS16 (truncDiv vs.sum n) = BitVec.ofInt 16 (vs.sum.tdiv n) := if_pos fits
  exact ⟨(if_neg (by omega)).trans holding, holding ▸ toS16_toInt fits⟩

theorem meanOf_sampleValues {s : State} {samples : List (List Byte)} (wf : s.cfg.wf = true)
    (len : samples.length = s.cfg.calN) :
    let mean := (samples.map (sampleValue s.cfg (resolution s.cfg s.opf))).sum.tdiv s.cfg.calN
    meanOf (samples.map (sampleValue s.cfg (resolution s.cfg s.opf))) s.cfg.calN = BitVec.ofInt 16 mean ∧
      (BitVec.ofInt 16 mean).toInt = mean := by
  refine meanOf_eq (Config.wf_spec wf).samples (by rw [List.length_map, len]) fun v hv => ?_
  obtain ⟨b, -, rfl⟩ := List.mem_map.mp hv
  exact decodeSample_inSampleRange _ _ _

/-! ### What the measuring leaves, by the first answer that stops it (R210, R212) -/

/-- The state in which a calibration that began in `s` begins its restore: the line is released, the shadows hold `opf`
and `intsrs`, the reference is `ref`, `acks` and `bytes` are left to draw, and `new` has been emitted. -/
def State.measured (s : State) (opf intsrs : Byte) (ref : Half) (acks : List Bool) (bytes : List Byte)
    (new : List Emitted) : State :=
  { s.lineReleased with
    opf := opf, intsrs := intsrs, calRef := ref
    env := { s.env with acks := acks, bytes := bytes }
    trace := s.trace ++ new }

theorem afterSamples_calibrating (s : State) (answers : List (Option (List Byte))) (before acks : List Bool)
    (bytes : List Byte) : (s.calibrating before).afterSamples (sampleReads s.cfg answers) acks bytes =
      s.measured (calOpf s) (calIntsrs s) s.calRef acks bytes (calibrationEvents s answers) := by
  simp only [State.afterSamples, State.calibrating, State.measured, calibrationEvents, List.append_assoc]
  rfl

/-- An OPF value at which the preparation stops is the one found or that one with the active bit clear, so the restore
makes the same value of it. -/
theorem restoredOpf_stopped {s : State} (wf : s.cfg.wf = true) {k : Nat} (hk : k < 3) :
    restoredOpf s.cfg (lastWritten s.cfg.addrOpf s.opf (stoppedAt k (calibrationWrites s))) s.opf = measuringOpf s := by
  have away := (Config.wf_distinct wf).1.symm
  rw [lastWritten_stoppedAt]
  match k, hk with
  | 0, _ => exact restoredOpf_untouched s
  | 1, _ => simpa [calibrationWrites, acknowledged, lastWritten, away] using restoredOpf_untouched s
  | 2, _ => simpa [calibrationWrites, acknowledged, lastWritten] using restoredOpf_off s

section
variable {s : State} {acks : List Bool} {bytes : List Byte} (wf : s.cfg.wf = true)
include wf

theorem calMeasure_of_refused_write {k : Nat} (hk : k < 3) (answers : s.env.acks = List.replicate k true ++ false :: acks) :
    calMeasure (detachIfAttached s) = .raised .transport (s.measured
      (lastWritten s.cfg.addrOpf s.opf (stoppedAt k (calibrationWrites s)))
      (lastWritten s.cfg.addrIntsrs s.intsrs (stoppedAt k (calibrationWrites s)))
      s.calRef acks s.env.bytes (releaseEvents s ++ stoppedAt k (calibrationWrites s))) := by
  rw [detachIfAttached_eq, calMeasure, calPrepare_stopped (s := s.lineReleased) k acks hk wf rfl answers,
    Res.andThen_raised, State.measured, ← List.append_assoc]
  rfl

section
variable {samples : List (List Byte)} (fresh : ∀ b ∈ samples, freshSample s.cfg b = true)
include fresh

theorem calMeasure_of_refused_read (few : samples.length < s.cfg.calN)
    (answers : s.env.acks = List.replicate (samples.length + 3) true ++ false :: acks)
    (read : s.env.bytes = samples.flatten ++ bytes) :
    calMeasure (detachIfAttached s) = .raised .transport (s.measured (calOpf s) (calIntsrs s) s.calRef acks bytes
      (calibrationEvents s (samples.map some ++ [none]))) := by
  rw [calMeasure_prepared (List.replicate samples.length true ++ false :: acks) wf answers,
    takeSamples_nacked samples (s.calibrating _) s.cfg.calN acks bytes wf fresh few rfl read, Res.andThen_raised]
  exact congrArg _ (afterSamples_calibrating ..)

theorem calMeasure_of_stale_sample {stale : List Byte} (few : samples.length < s.cfg.calN)
    (length : stale.length = s.cfg.sampleLen) (unready : freshSample s.cfg stale = false)
    (answers : s.env.acks = List.replicate (samples.length + 4) true ++ acks)
    (read : s.env.bytes = samples.flatten ++ stale ++ bytes) :
    calMeasure (detachIfAttached s) = .raised .notReady (s.measured (calOpf s) (calIntsrs s) s.calRef acks bytes
      (calibrationEvents s (samples.map some ++ [some stale]))) := by
  rw [calMeasure_prepared (List.replicate (samples.length + 1) true ++ acks) wf answers,
    takeSamples_stale samples stale (s.calibrating _) s.cfg.calN acks bytes wf fresh few length unready rfl read,
    Res.andThen_raised]
  exact congrArg _ (afterSamples_calibrating ..)

theorem takeSamples_calibrating (all : samples.length = s.cfg.calN) (read : s.env.bytes = samples.flatten ++ bytes) :
    takeSamples s.cfg.calN (s.calibrating (List.replicate s.cfg.calN true ++ acks)) =
      .done (samples.map (sampleValue s.cfg (resolution s.cfg s.opf))) (s.measured (calOpf s) (calIntsrs s) s.calRef acks
        bytes (calibrationEvents s (samples.map some))) := by
  rw [← all, ← resolution_calOpf wf]
  exact (takeSamples_fresh samples (s.calibrating _) acks bytes wf fresh rfl read).trans
    (congrArg _ (afterSamples_calibrating ..))

theorem calMeasure_of_fresh_samples (all : samples.length = s.cfg.calN)
    (answers : s.env.acks = List.replicate (s.cfg.calN + 3) true ++ acks)
    (read : s.env.bytes = samples.flatten ++ bytes) :
    calMeasure (detachIfAttached s) = .done () (s.measured (calOpf s) (calIntsrs s)
      (BitVec.ofInt 16 ((samples.map (sampleValue s.cfg (resolution s.cfg s.opf))).sum.tdiv s.cfg.calN)) acks bytes
      (calibrationEvents s (samples.map some))) := by
  rw [calMeasure_prepared (List.replicate s.cfg.calN true ++ acks) wf answers,
    takeSamples_calibrating wf fresh all read, Res.andThen_done, ← (meanOf_sampleValues wf all).1]
  rfl

end
end

/-! ### The command, by what the measuring leaves (R214 to R216) -/

section
variable {i : Instr} {s : State} {r : RestoreAnswers} {acks : List Bool} {bytes : List Byte}
  {grants : List (Option Handle)} (calibrates : i = .cal ∨ i = .calpass1 ∨ i = .calpass2) (wf : s.cfg.wf = true)
  (attached : s.irqAttached = true → s.env.grants = r.grant :: grants)
  {opf intsrs : Byte} {ref : Half} {new : List Emitted} (back : restoredOpf s.cfg opf s.opf = measuringOpf s)
include wf attached back

theorem calibrate_of_measured
    (measured : (calMeasure (detachIfAttached s)).state = s.measured opf intsrs ref (r.acks s ++ acks) bytes new) :
    calibrate s = (((calMeasure (detachIfAttached s)).caught false).1 || !r.allGood s, restored s { s with
      opf := opf, intsrs := intsrs, calRef := ref, env := s.envAfter acks bytes grants, trace := s.trace ++ new } r) :=
  calibrate_listed r acks grants measured wf rfl rfl rfl rfl back rfl attached

/-- A measuring that is done ends in a calibration that fails exactly where its restore does. -/
theorem calibrate_of_done
    (done : calMeasure (detachIfAttached s) = .done () (s.measured opf intsrs ref (r.acks s ++ acks) bytes new)) :
    calibrate s = (!r.allGood s, restored s { s with
      opf := opf, intsrs := intsrs, calRef := ref, env := s.envAfter acks bytes grants, trace := s.trace ++ new } r) := by
  have ends := calibrate_of_measured wf attached back (congrArg Res.state done)
  rwa [done, Res.caught_done, Bool.false_or] at ends

include calibrates

/-- A measuring that raises fails the command, whatever its restore meets. -/
theorem exec_calibration_of_raised {e : Err}
    (raised : calMeasure (detachIfAttached s) = .raised e (s.measured opf intsrs s.calRef (r.acks s ++ acks) bytes new)) :
    exec i s = .next { restored s { s with
      opf := opf, intsrs := intsrs, env := s.envAfter acks bytes grants, trace := s.trace ++ new } r with
        status := 5, result := 0 } := by
  have ends := calibrate_of_measured wf attached back (congrArg Res.state raised)
  rw [raised, Res.caught_raised, Bool.true_or] at ends
  exact exec_calibration calibrates ends

end

/-- Settles O35: the sampling raises at the stale sample. -/
theorem calibrationStopsAtFirstStaleSample : Obligations.CalibrationStopsAtFirstStaleSample := by
  intro i s samples stale acks bytes r grants calibrates wf few fresh length unready answers read attached
  rw [List.append_assoc] at answers
  exact exec_calibration_of_raised calibrates wf attached (restoredOpf_cal wf)
    (calMeasure_of_stale_sample wf fresh few length unready answers read)

/-- Settles O56: the preparation raises at the refused write, and the sampling at the refused read. -/
theorem calibrationStopsAtRefusedTransaction : Obligations.CalibrationStopsAtRefusedTransaction := by
  intro i s acks bytes r grants calibrates wf attached ws
  refine ⟨fun k hk answers => ?_, fun samples few fresh answers read => ?_⟩
  · rw [List.append_assoc]
    exact exec_calibration_of_raised calibrates wf attached (restoredOpf_stopped wf hk)
      (calMeasure_of_refused_write wf hk answers)
  · exact exec_calibration_of_raised calibrates wf attached (restoredOpf_cal wf)
      (calMeasure_of_refused_read wf fresh few answers read)

/-- Settles O57: the measuring is done, and the command fails by its restore alone. -/
theorem calibrationRestoreIsBestEffort : Obligations.CalibrationRestoreIsBestEffort := by
  intro i s samples acks bytes r grants calibrates wf bad all fresh answers read attached mean
  rw [List.append_assoc] at answers
  have ends := calibrate_of_done wf attached (restoredOpf_cal wf)
    (calMeasure_of_fresh_samples wf fresh all answers read)
  rw [bad, Bool.not_false] at ends
  exact ⟨(meanOf_sampleValues wf all).2, exec_calibration calibrates ends⟩

/-! ### A restore of which every step succeeds (R210) -/

/-- Every write of the restore is acknowledged, and the line is granted with the handle `h`. -/
def RestoreAnswers.good (h : Handle) : RestoreAnswers := ⟨true, some h, true, true⟩

@[simp] theorem RestoreAnswers.allGood_good (h : Handle) (s : State) : (good h).allGood s = true := by
  simp [good, allGood]

theorem RestoreAnswers.acks_good (h : Handle) (s : State) :
    (good h).acks s = List.replicate (if s.enabled then 2 else 3) true := by
  cases enabled : s.enabled <;> simp [good, acks, enabled]

theorem restored_good (s m : State) (h : Handle) : restored s m (.good h) = { m with
    intsrs := s.intsrs
    opf := if s.enabled then measuringOpf s else measuringOpf s &&& ~~~s.cfg.opfActive
    irqAttached := s.irqAttached && s.enabled
    irqHandle := if s.irqAttached then (if s.enabled then some h else none) else s.irqHandle
    trace := m.trace ++ [.busWrite s.cfg.addrIntsrs [s.intsrs] true] ++
      (if s.irqAttached then [requestEvent s (some h)] else []) ++ [.busWrite s.cfg.addrOpf [measuringOpf s] true] ++
      if s.enabled then [] else (if s.irqAttached then [.irqRelease (some h)] else []) ++
        [.busWrite s.cfg.addrOpf [measuringOpf s &&& ~~~s.cfg.opfActive] true] } := by
  cases enabled : s.enabled <;> simp [restored, RestoreAnswers.good, RestoreAnswers.holds, enabled]

/-- Settles O34: the measuring is done and every step of the restore succeeds. -/
theorem calibrationLearnsTheMean : Obligations.CalibrationLearnsTheMean := by
  intro i s samples acks bytes h grants calibrates wf all fresh answers read attached mean meas off again released
  have answers : s.env.acks = List.replicate (s.cfg.calN + 3) true ++ ((RestoreAnswers.good h).acks s ++ acks) := by
    rw [answers, RestoreAnswers.acks_good, ← List.append_assoc, List.replicate_append_replicate, Nat.add_assoc,
      apply_ite (3 + ·)]
  have ends := calibrate_of_done (r := .good h) wf attached (restoredOpf_cal wf)
    (calMeasure_of_fresh_samples wf fresh all answers read)
  obtain ⟨-, holds⟩ := meanOf_sampleValues wf all
  have widened : (BitVec.ofInt 16 mean).signExtend 32 = BitVec.ofInt 32 mean := by rw [BitVec.signExtend, holds]
  rw [RestoreAnswers.allGood_good, Bool.not_true, restored_good] at ends
  rw [exec_calibration calibrates ends]
  exact ⟨holds, by rw [← widened]; rfl⟩

/-! ### What a calibration reads (R210, R212) -/

theorem readAddresses_append (xs ys : List Emitted) :
    readAddresses (xs ++ ys) = readAddresses xs ++ readAddresses ys := by
  fun_induction readAddresses xs with
  | case1 => rfl
  | case2 addr n answer xs ih => rw [List.cons_append, readAddresses, ih, List.cons_append]
  | case3 x xs other ih =>
    rw [List.cons_append, readAddresses]
    · exact ih
    · exact other

/-- From `s` to `t` the configuration is kept, and the reads begun are those at the addresses `l`. -/
structure Reads (l : List Byte) (s t : State) : Prop where
  cfg : t.cfg = s.cfg
  addresses : readAddresses t.trace = readAddresses s.trace ++ l

theorem Reads.nothing {s t : State} (cfg : t.cfg = s.cfg := by rfl) (trace : t.trace = s.trace := by rfl) :
    Reads [] s t := ⟨cfg, by rw [trace, List.append_nil]⟩

theorem Reads.trans {l m : List Byte} {s t u : State} (h : Reads l s t) (h' : Reads m t u) : Reads (l ++ m) s u :=
  ⟨h'.cfg.trans h.cfg, by rw [h'.addresses, h.addresses, List.append_assoc]⟩

theorem Reads.emit (s : State) (x : Emitted) {l : List Byte} (h : readAddresses [x] = l := by rfl) :
    Reads l s (s.emit x) := ⟨rfl, h ▸ readAddresses_append s.trace [x]⟩

/-- What makes no read access begins no read. -/
theorem reads_nothing_kept : KeptByLine (fun _ a => ∀ addr, a ≠ .read addr) (Reads []) where
  cfg := Reads.cfg
  refl _ := .nothing
  trans := .trans
  env _ _ := .nothing
  quiet s x _ allowed := by
    cases x with
    | busRead addr n answer => exact absurd rfl (allowed (.read addr) List.mem_cons_self addr)
    | _ => exact .emit s _
  write s a p _ := (Reads.emit s (.busWrite a p true)).trans (l := []) .nothing
  attach _ _ := .nothing
  detach _ := .nothing

theorem opfAccess_readsNothing : Allows (fun _ a => ∀ addr, a ≠ .read addr) opfAccess := by
  simp [Allows, opfAccess]

theorem intsrsAccess_readsNothing : Allows (fun _ a => ∀ addr, a ≠ .read addr) intsrsAccess := by
  simp [Allows, intsrsAccess]

theorem readSample_reads {s t : State} {v : Int} (h : readSample s = .done v t) : Reads [s.cfg.sampleAddr] s t := by
  obtain ⟨b, u, read, h⟩ := Res.andThen_eq_done h
  obtain ⟨-, e⟩ | ⟨b', -, e⟩ | e := memRead_cases s.cfg.sampleAddr s.cfg.sampleLen s <;> rw [e] at read <;> cases read
  split at h <;> cases h
  exact Reads.trans (l := []) .nothing (.emit _ _)

theorem moreSamples_reads {n : Nat} {s t : State} {vs : List Int} (h : moreSamples n s = .done vs t) :
    Reads (List.replicate n s.cfg.sampleAddr) s t := by
  induction n generalizing s t vs with
  | zero =>
    cases h
    exact .nothing
  | succ n ih =>
    obtain ⟨v, u, first, h⟩ := Res.andThen_eq_done h
    obtain ⟨ws, w, more, h⟩ := Res.andThen_eq_done h
    cases h
    have one := (Reads.emit s (.wait s.cfg.calSampleWaitMs)).trans (l := []) (readSample_reads first)
    exact one.trans (one.cfg ▸ ih more)

theorem takeSamples_reads {n : Nat} {s t : State} {vs : List Int} (h : takeSamples n s = .done vs t) :
    Reads (List.replicate n s.cfg.sampleAddr) s t := by
  cases n with
  | zero =>
    cases h
    exact .nothing
  | succ n =>
    obtain ⟨v, u, first, h⟩ := Res.andThen_eq_done h
    obtain ⟨ws, w, more, h⟩ := Res.andThen_eq_done h
    cases h
    have one := readSample_reads first
    exact one.trans (one.cfg ▸ moreSamples_reads more)

/-- A measurement keeps the reference, or it has read all its samples. -/
theorem calMeasure_reference (s : State) : (calMeasure s).state.calRef = s.calRef ∨
    Reads (List.replicate s.cfg.calN s.cfg.sampleAddr) s (calMeasure s).state := by
  have prepared := calibrationElements_line.calPrepare (calibrationElements_allows _) (calibrationElements_allows _) s
  have unread := reads_nothing_kept.calPrepare opfAccess_readsNothing intsrsAccess_readsNothing s
  unfold calMeasure
  cases hp : calPrepare s with
  | raised e t =>
    rw [hp] at prepared
    exact .inl prepared.calRef_eq
  | done _ t =>
    rw [hp] at prepared unread
    have sampled := calibrationElements_line.takeSamples (calibrationElements_allows _) t.cfg.calN t
    rw [Res.andThen_done]
    cases hs : takeSamples t.cfg.calN t with
    | raised e u =>
      rw [hs] at sampled
      exact .inl (prepared.trans sampled).calRef_eq
    | done vs u =>
      have all := unread.trans (takeSamples_reads hs)
      rw [Res.state_done, show t.cfg = s.cfg from unread.cfg, List.nil_append] at all
      exact .inr ⟨all.cfg, all.addresses⟩

/-- A calibration keeps the reference, or it has read all its samples. -/
theorem calibrate_reference (s : State) : (calibrate s).2.calRef = s.calRef ∨
    Reads (List.replicate s.cfg.calN s.cfg.sampleAddr) s (calibrate s).2 := by
  have detached := calibrationElements_line.detachIfAttached s
  have restored := calibrationElements_line.calRestore (calibrationElements_allows _) (calibrationElements_allows _)
  unfold calibrate
  simp only [(restored _ _ _).calRef_eq, Res.caught_state]
  obtain kept | all := calMeasure_reference (detachIfAttached s)
  · exact .inl (kept.trans detached.calRef_eq)
  · have reads := ((reads_nothing_kept.detachIfAttached s).trans all).trans
      (reads_nothing_kept.calRestore opfAccess_readsNothing intsrsAccess_readsNothing s
        ((calMeasure (detachIfAttached s)).caught false).1 _)
    rw [detached.cfg, List.nil_append, List.append_nil] at reads
    exact .inr reads

/-- What a calibration changes: what its steps change, and the reference (R210, R213). -/
def learningElements (_ : Config) (x : Element) : Prop := x ∈ [.opf, .intsrs, .line, .calRef]

theorem calibrate_changesOnly (s : State) : ChangesOnly learningElements s (calibrate s).2 :=
  (ChangesOnly.keptByLine (by simp [learningElements])).calibrate
    (fun _ _ _ => ⟨fun _ => by simp [learningElements], fun _ => by simp [learningElements]⟩) s
    fun _ _ => .update .calRef (by simp [learningElements])

theorem calibrate_startsNothing (s : State) : StartsNothing s (calibrate s).2 :=
  startsNothing_kept.calibrate (fun _ _ _ => trivial) s fun _ _ => .silent

/-- Settles O36: the command adds its completion and its flag to what `calibrate` leaves. -/
theorem calibrationFrame : Obligations.CalibrationFrame := by
  intro i s calibrates
  obtain ⟨failed, u, h⟩ : ∃ failed u, calibrate s = (failed, u) := ⟨_, _, rfl⟩
  have same := (calibrate_changesOnly s).same
  obtain ⟨cfg, -, -, -, new, trace, unpublished⟩ := calibrate_startsNothing s
  have reference := calibrate_reference s
  rw [h] at same cfg trace reference
  have read : u.calRef = s.calRef ∨ readAddresses new = List.replicate s.cfg.calN s.cfg.sampleAddr :=
    reference.imp_right fun all => List.append_cancel_left (by rw [← all.addresses, trace, readAddresses_append])
  have kept : ∀ x, x ∉ [Element.opf, .intsrs, .line, .calRef] → x.Same s u := same
  have high : u.calHighDone = s.calHighDone := kept .calHighDone (by simp)
  have low : u.calLowDone = s.calLowDone := kept .calLowDone (by simp)
  refine ⟨_, new, exec_calibration calibrates h, ?_⟩
  cases failed <;> refine ⟨?_, trace, unpublished, kept .enabled (by simp), kept .delay (by simp), kept .debug (by simp),
    kept .lastZone (by simp), kept .th (by simp), kept .tl (by simp), kept .pol (by simp), kept .pending (by simp),
    kept .alive (by simp), cfg⟩
  · exact .inl ⟨rfl, congrArg (· || _) high, congrArg (· || _) low, rfl⟩
  · exact .inr ⟨rfl, rfl, high, low, read⟩

end Sys2Proof.Machine
end

section
/-! SUPPORT. The two events of a live block with the smallest effect: a command word of no row, which is only reported
(R246), and an edge, which only arms the slot (R248). -/

namespace Sys2Proof.Machine

/-! ### A word of no row (R246) -/

theorem decode_ne_ok_of_no_row {w : Word} (unmatched : ∀ r ∈ opcodeMap, r.hits w = false) (i : Instr) :
    decode w ≠ .ok i := by
  intro h
  obtain ⟨r, row, hit⟩ := row_of_decode h
  exact absurd hit (by simp [unmatched r (List.mem_of_getElem? row)])

theorem runCommand_of_undecodable {w : Word} (h : ∀ i, decode w ≠ .ok i) (s : State) :
    runCommand w s = .next (s.raise .illegalCommand) := by
  unfold runCommand
  split
  · exact absurd ‹_› (h _)
  · rfl

/-- Settles O5: a word that no row matches decodes to no command, so the step is `raise` of `IllegalCommand`. -/
theorem illegalWordIsReported : Obligations.IllegalWordIsReported := by
  intro s w alive e unmatched
  rw [step_command alive e, runCommand_of_undecodable (decode_ne_ok_of_no_row unmatched)]
  rfl

/-! ### An edge on the line (R248) -/

theorem step_irqEdge {s : State} (alive : s.alive = true) (e : s.env.event = .irqEdge) :
    step s = .next (if s.irqAttached then irqEdge s.dropEvent else s.dropEvent) := by
  rw [step_alive alive, e]
  rfl

/-- Settles O41, by whether a line is attached. -/
theorem edgeOnlyArmsTheWorker : Obligations.EdgeOnlyArmsTheWorker := by
  intro s alive e
  rw [step_irqEdge alive e]
  constructor
  · intro attached
    rw [if_pos attached]
    rfl
  · intro free
    rw [if_neg (by simp [free])]
    rfl

end Sys2Proof.Machine
end

section
/-! SUPPORT. How many values each operation may publish (R261): a sample pass one, ENABLE that of the pass it forces, and
everything else none. -/

namespace Sys2Proof.Machine

/-- From `s` to `t` the trace only grows, by events of which at most `n` are publications. -/
def PublishesAtMost (n : Nat) (s t : State) : Prop :=
  ∃ new, t.trace = s.trace ++ new ∧ (published new).length ≤ n

variable {m n : Nat} {s t u : State}

theorem PublishesAtMost.trans (h : PublishesAtMost m s t) (h' : PublishesAtMost n t u) :
    PublishesAtMost (m + n) s u := by
  obtain ⟨new, trace, few⟩ := h
  obtain ⟨new', trace', few'⟩ := h'
  refine ⟨new ++ new', by rw [trace', trace, List.append_assoc], ?_⟩
  rw [published_append, List.length_append]
  exact Nat.add_le_add few few'

theorem PublishesAtMost.mono (h : PublishesAtMost m s t) (le : m ≤ n) : PublishesAtMost n s t :=
  h.imp fun _ h => ⟨h.1, h.2.trans le⟩

/-- An operation that adds nothing to the trace. -/
theorem PublishesAtMost.silent (trace : t.trace = s.trace := by rfl) : PublishesAtMost n s t :=
  ⟨[], by simp [trace], Nat.zero_le n⟩

/-- An operation that adds one event to the trace. -/
theorem PublishesAtMost.one (x : Emitted) (few : (published [x]).length ≤ n := by exact Nat.le_refl _)
    (trace : t.trace = s.trace ++ [x] := by rfl) : PublishesAtMost n s t := ⟨[x], trace, few⟩

theorem PublishesAtMost.andThen {α β : Type} {r : Res α} {f : α → State → Res β}
    (h : PublishesAtMost m s r.state)
    (hf : ∀ v t, PublishesAtMost n t (f v t).state) : PublishesAtMost (m + n) s (r.andThen f).state := by
  cases r with
  | done v t => exact h.trans (hf v t)
  | raised e t => exact h.mono (Nat.le_add_right m n)

/-- The operations of the transport and of the line publish nothing. -/
theorem StartsNothing.publishesNothing (h : StartsNothing s t) : PublishesAtMost 0 s t := by
  obtain ⟨new, trace, none⟩ := h.unpublished
  exact ⟨new, trace, by simp [none]⟩

/-- `startsNothing_kept` makes no demand on the accesses. -/
theorem allows_any (l : Config → List Access) : Allows (fun _ _ => True) l := fun _ _ _ => trivial

/-! ### The sample pass (R190) -/

theorem reprogram_startsNothing (s : State) : StartsNothing s (reprogram s).state := by
  unfold reprogram
  split
  · exact startsNothing_kept.andThen (startsNothing_kept.writeTypeFor (allows_any _) _ s) fun _ t _ =>
      startsNothing_kept.updateThresholds (allows_any _) t
  · exact .silent

theorem passBody_publishesAtMost_one (s : State) : PublishesAtMost 1 s (passBody s).state := by
  have read : PublishesAtMost 0 s (readSample s).state :=
    (startsNothing_kept.readSample (allows_any _) s).publishesNothing
  have classified : ∀ raw t, PublishesAtMost 1 t (classifySample raw t) := fun _ _ => .one (.publish _)
  exact read.andThen (n := 1) fun raw t => (classified raw t).trans (reprogram_startsNothing _).publishesNothing

theorem logFailure_publishesNothing (r : Res Unit) : PublishesAtMost 0 r.state (logFailure r) := by
  cases r with
  | done _ t => exact .silent
  | raised e t => exact .one (.log e.code)

theorem rearm_publishesNothing (s : State) : PublishesAtMost 0 s (rearm s) := by
  unfold rearm
  split
  · exact .one (.schedule _)
  · exact .silent

theorem samplePass_publishesAtMost_one (s : State) : PublishesAtMost 1 s (samplePass s) :=
  ((passBody_publishesAtMost_one s).trans (logFailure_publishesNothing _)).trans (rearm_publishesNothing _)

/-! ### ENABLE, DISABLE and SETDLY (R150 to R152) -/

theorem startDelivery_publishesAtMost_one (s : State) : PublishesAtMost 1 s (startDelivery s) := by
  unfold startDelivery
  split
  · exact .one (.schedule _) (Nat.zero_le 1)
  · have waited : PublishesAtMost 0 s (s.wait s.cfg.enableSettleMs) := .one (.wait _)
    exact waited.trans (samplePass_publishesAtMost_one _)

theorem enableTransition_publishesAtMost_one (s : State) : PublishesAtMost 1 s (enableTransition s).state := by
  have steps : StartsNothing s ((setDetCurrent s).andThen fun _ t => setModeMeas t).state :=
    startsNothing_kept.andThen (startsNothing_kept.setDetCurrent (allows_any _) (allows_any _) s) fun _ t _ =>
      startsNothing_kept.setModeMeas (allows_any _) t
  have enabled : ∀ t, PublishesAtMost 0 t { t with enabled := true } := fun _ => .silent
  rw [enableTransition_eq]
  exact steps.publishesNothing.andThen (n := 1) fun _ t => (startDelivery_publishesAtMost_one t).trans (enabled _)

theorem disableTransition_publishesNothing (s : State) : PublishesAtMost 0 s (disableTransition s).state := by
  have cancelled : PublishesAtMost 0 s s.cancelAndWait := .one .cancelAndWait
  have mode := (startsNothing_kept.setModePd (allows_any _) s.cancelAndWait).publishesNothing
  exact (cancelled.trans mode).andThen (n := 0) fun _ _ => .silent

theorem setDelay_publishesNothing (ms : Half) (s : State) : PublishesAtMost 0 s (setDelay ms s) := by
  unfold setDelay reschedule
  split
  · have cancelled : ∀ t : State, PublishesAtMost 0 t t.cancelAndWait := fun _ => .one .cancelAndWait
    have scheduled : ∀ (t : State) d, PublishesAtMost 0 t (t.schedule d) := fun _ _ => .one (.schedule _)
    exact (cancelled _).trans (scheduled _ _)
  · exact .silent

/-! ### Every command -/

/-- A command's end publishes nothing. -/
theorem PublishesAtMost.commandEnds {r : Res Word} (h : PublishesAtMost n s r.state) :
    ∃ t, commandEnds r = .next t ∧ PublishesAtMost n s t := by
  obtain ⟨w, c, e⟩ := r.finish_eq
  exact ⟨_, rfl, h.trans (n := 0) (.silent (by rw [e]))⟩

theorem StartsNothing.noResultEnds {r : Res Unit} (h : StartsNothing s r.state) :
    ∃ t, Machine.commandEnds r.noResult = .next t ∧ PublishesAtMost 0 s t :=
  PublishesAtMost.commandEnds (r.noResult_state ▸ h.publishesNothing)

theorem exec_enable_publishesAtMost_one (s : State) : ∃ t, exec .enable s = .next t ∧ PublishesAtMost 1 s t := by
  refine PublishesAtMost.commandEnds ?_
  split
  · exact .silent
  · exact (enableTransition s).noResult_state ▸ enableTransition_publishesAtMost_one s

theorem exec_calibration_publishesNothing {i : Instr} (calibrates : i = .cal ∨ i = .calpass1 ∨ i = .calpass2)
    (s : State) : ∃ t, exec i s = .next t ∧ PublishesAtMost 0 s t := by
  obtain ⟨t, new, ht, -, trace, unpublished, -⟩ := calibrationFrame i s calibrates
  exact ⟨t, ht, new, trace, by simp [unpublished]⟩

/-- ENABLE alone forces a sample pass (R150), so no other command publishes. -/
theorem exec_publishesNothing {i : Instr} (other : i ≠ .enable) (s : State) :
    ∃ t, exec i s = .next t ∧ PublishesAtMost 0 s t := by
  have kept := startsNothing_kept
  cases i with
  | enable => exact absurd rfl other
  | updthr => exact (kept.updateThresholds (allows_any _) s).noResultEnds
  | modePd => exact (kept.setModePd (allows_any _) s).noResultEnds
  | modeMeas => exact (kept.setModeMeas (allows_any _) s).noResultEnds
  | modeFuse => exact (kept.setModeFuse (allows_any _) s).noResultEnds
  | setdetPoll => exact (kept.setDetPoll (allows_any _) s).noResultEnds
  | setdetInt => exact (kept.setDetInt (allows_any _) (allows_any _) s).noResultEnds
  | regwr a v => exact (kept.memWrite a [v] s trivial).noResultEnds
  | regrd a =>
    have read := (kept.readByte a s trivial).publishesNothing
    exact PublishesAtMost.commandEnds (read.andThen (n := 0) fun _ _ => .silent)
  | chkid =>
    have read := (kept.readByte s.cfg.addrId s trivial).publishesNothing
    exact PublishesAtMost.commandEnds (read.andThen (n := 0) fun _ _ => .silent)
  | disable =>
    refine PublishesAtMost.commandEnds ?_
    split
    · exact (disableTransition s).noResult_state ▸ disableTransition_publishesNothing s
    · exact .silent
  | setdly ms => exact PublishesAtMost.commandEnds (setDelay_publishesNothing ms s)
  | cal | calpass1 | calpass2 => exact exec_calibration_publishesNothing (by simp) s
  | calapply1 | calapply2 =>
    refine PublishesAtMost.commandEnds (.silent ?_)
    rw [Res.state_done]
    split <;> rfl
  | _ => exact PublishesAtMost.commandEnds .silent

/-! ### Every step of a live block -/

/-- How many values the step at an event may publish (R261). -/
def publicationBound : Event → Nat
  | .workerRun => 1
  | .command w => if decode w = .ok .enable then 1 else 0
  | .irqEdge | .init | .detach => 0

theorem publicationBound_le_one (e : Event) : publicationBound e ≤ 1 := by
  unfold publicationBound
  split
  · exact Nat.le_refl 1
  · split <;> decide
  all_goals exact Nat.zero_le 1

theorem event_of_publicationBound_pos {e : Event} (pos : 0 < publicationBound e) :
    e = .workerRun ∨ e = .command (encode .enable) := by
  cases e with
  | workerRun => exact .inl rfl
  | command w =>
    have enable : decode w = .ok .enable := by
      by_contra other
      rw [publicationBound, if_neg other] at pos
      exact Nat.lt_irrefl 0 pos
    exact .inr (congrArg Event.command (encode_of_decode enable).symm)
  | irqEdge | init | detach => exact absurd pos (Nat.lt_irrefl 0)

theorem runCommand_publishesAtMost (w : Word) (s : State) :
    ∃ t, runCommand w s = .next t ∧ PublishesAtMost (publicationBound (.command w)) s t := by
  rw [publicationBound]
  split
  case isTrue enable => exact runCommand_of_decode enable s ▸ exec_enable_publishesAtMost_one s
  case isFalse other =>
    cases h : decode w with
    | ok i => exact runCommand_of_decode h s ▸ exec_publishesNothing (fun e => other (e ▸ h)) s
    | error _ => exact ⟨_, runCommand_of_undecodable (by simp [h]) s, .silent⟩

theorem takeEvent_publishesAtMost (e : Event) (s : State) :
    ∃ t, takeEvent e s = .next t ∧ PublishesAtMost (publicationBound e) s t := by
  cases e with
  | command w => exact runCommand_publishesAtMost w s
  | workerRun =>
    refine ⟨_, rfl, ?_⟩
    split
    · have cleared : PublishesAtMost 0 s { s with pending := false } := .silent
      exact cleared.trans (samplePass_publishesAtMost_one _)
    · exact .silent
  | irqEdge =>
    refine ⟨_, rfl, ?_⟩
    split
    · exact .one (.schedule 0)
    · exact .silent
  | init => exact ⟨s, rfl, .silent⟩
  | detach =>
    refine ⟨_, rfl, _, detachEvent_trace s, ?_⟩
    rw [published_append, releaseEvents]
    split <;> exact Nat.le_refl 0

/-- A worker run and an edge end no command (R190, R248). -/
theorem takeEvent_keeps_completion {e : Event} {s t : State} (he : e = .workerRun ∨ e = .irqEdge)
    (h : takeEvent e s = .next t) : t.status = s.status ∧ t.result = s.result := by
  have kept : ∀ {u}, ChangesOnly passElements s u → u.status = s.status ∧ u.result = s.result :=
    fun frame => frame.same .completion (by simp [passElements])
  rcases he with rfl | rfl <;> obtain rfl := Host.Outcome.next.inj h <;> split
  · exact kept (workerRun_changesOnly s)
  · exact ⟨rfl, rfl⟩
  · exact kept (irqEdge_changesOnly s)
  · exact ⟨rfl, rfl⟩

/-- Settles O54: the event at the boundary bounds the publications, and only a worker run and ENABLE have a bound above
zero. -/
theorem onlySamplePassesPublish : Obligations.OnlySamplePassesPublish := by
  intro s t alive hst
  rw [step_alive alive] at hst
  refine ⟨?_, fun he => takeEvent_keeps_completion (s := s.dropEvent) he hst⟩
  obtain ⟨t', ht', new, trace, bound⟩ := takeEvent_publishesAtMost s.env.event s.dropEvent
  obtain rfl := Host.Outcome.next.inj (ht'.symm.trans hst)
  refine ⟨new, trace, bound.trans (publicationBound_le_one _), fun nonempty => ?_⟩
  exact event_of_publicationBound_pos ((List.length_pos_iff.mpr nonempty).trans_le bound)

end Sys2Proof.Machine
end

section
/-! SUPPORT. INIT and DETACH (R271 to R275): the sequence of INIT by the answers to its three transactions, the two ways it
can end, and DETACH as the loss of all state after its two emissions. -/

namespace Sys2Proof.Machine

/-! ### The reset state (R270) -/

/-- Settles O46: the elements are set to these values, and a cleared active bit is PowerDown. -/
theorem resetValues : Obligations.ResetValues :=
  ⟨rfl, rfl, rfl, rfl, rfl, rfl, rfl, rfl, rfl, by decide, rfl, rfl, rfl, rfl, rfl, rfl, rfl, rfl, mode_clearActive _ _⟩

/-! ### The step that takes an INIT (R271) -/

theorem step_init {s : State} (dead : s.alive = false) (e : s.env.event = .init) :
    step s = .next (initEvent s.dropEvent) := by
  rw [step_dead dead, e]
  rfl

theorem step_init_listed {s : State} {events : List Event} (dead : s.alive = false)
    (offered : s.env.events = .init :: events) :
    step s = .next (initEvent { s with env := { s.env with events := events } }) := by
  obtain ⟨event, rest⟩ := Env.event_head offered
  rw [step_init dead event, State.dropEvent, rest]

theorem initEvent_of_done {s t : State} (h : initSequence (initDefaults s) = .done () t) : initEvent s = t := by
  rw [initEvent, h]

theorem initEvent_of_raised {s t : State} {e : Err} (h : initSequence (initDefaults s) = .raised e t) :
    initEvent s = t.raise e := by
  rw [initEvent, h]

/-! ### The transactions of INIT, by their answers (R272) -/

/-- What the acknowledged soft-reset write emits: itself and its settle wait (R57). -/
def resetEvents (c : Config) : List Emitted := [.busWrite c.addrSrst [c.srstValue] true, .wait c.srstSettleMs]

/-- INIT once the soft-reset write is acknowledged: the defaults, with the reset emitted. -/
def State.softReset (s : State) (acks : List Bool) : State :=
  { initDefaults s with env := { s.env with acks := acks }, trace := s.trace ++ resetEvents s.cfg }

/-- INIT once the identity read is answered. -/
def State.identified (s : State) (b : Byte) (acks : List Bool) (bytes : List Byte) : State :=
  { s with
    env := { s.env with acks := acks, bytes := bytes }
    trace := s.trace ++ [.busRead s.cfg.addrId 1 (some [b])] }

section
variable {s : State} {acks : List Bool}

/-- Re-seeding undoes whatever the reset write did to the shadows, so only its two emissions are left of it. -/
theorem initSequence_of_reset_acked (fits : 1 ≤ s.cfg.maxXfer) (answers : s.env.acks = true :: acks) :
    initSequence (initDefaults s) = (checkIdentity (s.softReset acks)).andThen fun _ t =>
      (setModePd t).andThen fun _ u => .done () { u with alive := true } := by
  obtain ⟨ack, rest⟩ := Env.ack_listed answers
  have write := memWrite_of_ack (s := initDefaults s) s.cfg.addrSrst (payload := [s.cfg.srstValue]) le_rfl fits ack
  have reseeded : reseedShadows ((((initDefaults s).dropAck.emit (.busWrite s.cfg.addrSrst [s.cfg.srstValue] true)
      ).shadowUpdate s.cfg.addrSrst [s.cfg.srstValue]).settle s.cfg.addrSrst) = s.softReset acks := by
    rw [State.softReset, ← rest, State.settle_eq, if_pos (by rfl)]
    simp only [reseedShadows, State.shadowUpdate, State.emit, State.dropAck, List.append_assoc]
    rfl
  rw [initSequence, ← reseeded]
  exact congrArg (Res.andThen · _) write

theorem initSequence_of_reset_nacked (fits : 1 ≤ s.cfg.maxXfer) (answers : s.env.acks = false :: acks) :
    initSequence (initDefaults s) = .raised .transport { initDefaults s with
      env := { s.env with acks := acks }, trace := s.trace ++ [.busWrite s.cfg.addrSrst [s.cfg.srstValue] false] } := by
  have write := memWrite_nacked s.cfg.addrSrst s.cfg.srstValue (initDefaults s) acks fits answers
  exact congrArg (Res.andThen · _) write

theorem checkIdentity_nacked (fits : 1 ≤ s.cfg.maxXfer) (answers : s.env.acks = false :: acks) :
    checkIdentity s = .raised .transport { s with
      env := { s.env with acks := acks }, trace := s.trace ++ [.busRead s.cfg.addrId 1 none] } := by
  rw [checkIdentity, readByte, memRead_nacked s.cfg.addrId 1 s acks le_rfl fits answers]
  rfl

theorem checkIdentity_answered {b : Byte} {bytes : List Byte} (fits : 1 ≤ s.cfg.maxXfer)
    (answers : s.env.acks = true :: acks) (read : s.env.bytes = b :: bytes) :
    checkIdentity s = if b = s.cfg.idValue then .done () (s.identified b acks bytes)
      else .raised .identityMismatch (s.identified b acks bytes) := by
  have answered := memRead_acked s.cfg.addrId [b] s acks bytes le_rfl fits answers read
  rw [checkIdentity, readByte]
  exact congrArg (fun r => (Res.andThen r _).andThen _) answered

/-- With no line attached, the PowerDown step is its write alone. -/
theorem setModePd_of_unattached (free : s.irqAttached = false) : setModePd s = writeOpf (offOpf s) s := by
  rw [setModePd, detachIfAttached, if_neg (by simp [free])]
  rfl

theorem initSequence_of_identity_nacked (fits : 1 ≤ s.cfg.maxXfer) (answers : s.env.acks = true :: false :: acks) :
    initSequence (initDefaults s) = .raised .transport { s.softReset acks with
      trace := s.trace ++ (resetEvents s.cfg ++ [.busRead s.cfg.addrId 1 none]) } := by
  rw [initSequence_of_reset_acked fits answers, checkIdentity_nacked (s := s.softReset (false :: acks)) fits rfl,
    Res.andThen_raised, ← List.append_assoc]
  rfl

theorem initSequence_of_wrong_identity {b : Byte} {bytes : List Byte} (fits : 1 ≤ s.cfg.maxXfer)
    (answers : s.env.acks = true :: true :: acks) (read : s.env.bytes = b :: bytes) (wrong : b ≠ s.cfg.idValue) :
    initSequence (initDefaults s) = .raised .identityMismatch { s.softReset acks with
      env := { s.env with acks := acks, bytes := bytes }
      trace := s.trace ++ (resetEvents s.cfg ++ [.busRead s.cfg.addrId 1 (some [b])]) } := by
  rw [initSequence_of_reset_acked fits answers, checkIdentity_answered (s := s.softReset (true :: acks)) fits rfl read,
    if_neg (by exact wrong), Res.andThen_raised, ← List.append_assoc]
  rfl

section
variable {bytes : List Byte} {a : Bool} (wf : s.cfg.wf = true) (read : s.env.bytes = s.cfg.idValue :: bytes)
include wf read

/-- INIT with the right identity ends as its PowerDown write does. -/
theorem initSequence_of_identified (answers : s.env.acks = true :: true :: a :: acks) :
    initSequence (initDefaults s) = (writeOpf (s.cfg.opfReset &&& ~~~s.cfg.opfActive)
      ((s.softReset (true :: a :: acks)).identified s.cfg.idValue (a :: acks) bytes)).andThen fun _ t =>
        .done () { t with alive := true } := by
  have fits := Config.wf_maxXfer wf
  rw [initSequence_of_reset_acked fits answers,
    checkIdentity_answered (s := s.softReset (true :: a :: acks)) fits rfl read, if_pos (by rfl), Res.andThen_done,
    setModePd_of_unattached (by rfl)]
  rfl

theorem initSequence_of_powerDown_acked (answers : s.env.acks = true :: true :: true :: acks) :
    initSequence (initDefaults s) = .done () { s.softReset acks with
      opf := s.cfg.opfReset &&& ~~~s.cfg.opfActive, alive := true
      env := { s.env with acks := acks, bytes := bytes }
      trace := s.trace ++ (resetEvents s.cfg ++ [.busRead s.cfg.addrId 1 (some [s.cfg.idValue]),
        .busWrite s.cfg.addrOpf [s.cfg.opfReset &&& ~~~s.cfg.opfActive] true]) } := by
  rw [initSequence_of_identified wf read answers, writeOpf_answered _ _ true acks (by exact wf) rfl]
  simp only [State.identified, State.softReset, List.append_assoc]
  rfl

theorem initSequence_of_powerDown_nacked (answers : s.env.acks = true :: true :: false :: acks) :
    initSequence (initDefaults s) = .raised .transport { s.softReset acks with
      env := { s.env with acks := acks, bytes := bytes }
      trace := s.trace ++ (resetEvents s.cfg ++ [.busRead s.cfg.addrId 1 (some [s.cfg.idValue]),
        .busWrite s.cfg.addrOpf [s.cfg.opfReset &&& ~~~s.cfg.opfActive] false]) } := by
  rw [initSequence_of_identified wf read answers, writeOpf_answered _ _ false acks (by exact wf) rfl]
  simp only [State.identified, State.softReset, List.append_assoc]
  rfl

end
end

/-- Settles O42: INIT reaches its end when the three transactions are acknowledged. -/
theorem initGivesResetValues : Obligations.InitGivesResetValues := by
  intro s events acks bytes wf dead offered answers read
  rw [step_init_listed dead offered]
  exact congrArg Host.Outcome.next (initEvent_of_done (initSequence_of_powerDown_acked wf read answers))

/-! ### The ends of INIT, whatever the environment answers (R273) -/

/-- The part of INIT that can raise. -/
def initAttempt (s : State) : Res Unit :=
  (memWrite s.cfg.addrSrst [s.cfg.srstValue] s).andThen fun _ t =>
    (checkIdentity (reseedShadows t)).andThen fun _ u => setModePd u

theorem initSequence_eq (s : State) :
    initSequence s = (initAttempt s).andThen fun _ t => .done () { t with alive := true } := by
  rw [initAttempt, Res.andThen_assoc]
  refine Res.andThen_congr fun _ t _ => ?_
  rw [Res.andThen_assoc]

/-- Like a calibration, it changes at most the two shadows and the line. -/
theorem initAttempt_keeps_alive (s : State) : (initAttempt s).state.alive = s.alive := by
  have line := calibrationElements_line
  have reseeded : ∀ t, ChangesOnly calibrationElements t (reseedShadows t) := fun t =>
    ⟨rfl, fun x => by cases x <;> simp [calibrationElements, Element.Same, reseedShadows]⟩
  have any : ∀ c a, WritesOnly calibrationElements c a := fun c a =>
    calibrationElements_allows (fun _ => [a]) c a (List.mem_singleton_self a)
  have checked : ∀ t, ChangesOnly calibrationElements t (checkIdentity t).state := by
    refine fun t => line.andThen (line.readByte _ t (any _ _)) fun b u _ => ?_
    split <;> exact .refl u
  have frame : ChangesOnly calibrationElements s (initAttempt s).state :=
    line.andThen (line.memWrite _ _ s (any _ _)) fun _ t _ =>
      line.andThen ((reseeded t).trans (checked _)) fun _ u _ => line.setModePd (fun c a _ => any c a) u
  exact frame.same .alive (by simp [calibrationElements])

/-- INIT raises what its transactions raise, or a mismatch (R242, R272). -/
theorem initAttempt_raisesOnly (s : State) :
    (initAttempt s).RaisesOnly fun e => e = .transport ∨ e = .identityMismatch := by
  refine (memWrite_raisesOnly (.inl rfl) _ _ s).andThen fun _ t => Res.RaisesOnly.andThen ?_ fun _ u =>
    setModePd_raisesOnly (.inl rfl) u
  refine (readByte_raisesOnly (.inl rfl) _ _).andThen fun b u => ?_
  split
  · exact Res.raisesOnly_done () u
  · exact (Res.raisesOnly_raised _ u).mpr (.inr rfl)

/-- INIT ends alive and reported as done, or not alive and reported as failed with nothing owed and nothing held. -/
theorem initEvent_cases (s : State) :
    ((initEvent s).alive = true ∧ (initEvent s).status = 0) ∨
    ((initEvent s).alive = false ∧ ((initEvent s).status = 1 ∨ (initEvent s).status = 2) ∧
      (initEvent s).pending = false ∧ (initEvent s).irqAttached = false) := by
  have frame := initSequence_changesOnly (s := initDefaults s) rfl
  have life := initAttempt_keeps_alive (initDefaults s)
  have errors := initAttempt_raisesOnly (initDefaults s)
  have sequence := initSequence_eq (initDefaults s)
  cases attempt : initAttempt (initDefaults s) with
  | done _ t =>
    rw [attempt, Res.andThen_done] at sequence
    rw [sequence] at frame
    rw [initEvent_of_done sequence]
    exact .inl ⟨rfl, (frame.same .completion (by simp [initElements])).1⟩
  | raised e t =>
    rw [attempt, Res.andThen_raised] at sequence
    rw [sequence] at frame
    rw [attempt] at life
    rw [initEvent_of_raised sequence]
    refine .inr ⟨life, ?_, frame.same .pending (by simp [initElements]), (frame.same .line (by simp [initElements])).1⟩
    obtain rfl | rfl := errors e t attempt
    · exact .inl rfl
    · exact .inr rfl

/-- Settles O43: the two ends of any INIT, and the equation of the sequence at each of the four places where it raises. -/
theorem failedInitLeavesBlockDead : Obligations.FailedInitLeavesBlockDead := by
  refine ⟨fun s dead e => ⟨_, step_init dead e, initEvent_cases _⟩, ?_⟩
  intro s events acks b bytes wf dead offered
  have fits := Config.wf_maxXfer wf
  have raises : ∀ {e t}, initSequence (initDefaults { s with env := { s.env with events := events } }) = .raised e t →
      step s = .next (t.raise e) := fun h => by rw [step_init_listed dead offered, initEvent_of_raised h]
  exact ⟨fun answers => raises (initSequence_of_reset_nacked fits answers),
    fun answers => raises (initSequence_of_identity_nacked fits answers),
    fun answers read wrong => raises (initSequence_of_wrong_identity fits answers read wrong),
    fun answers read => raises (initSequence_of_powerDown_nacked wf read answers)⟩

/-! ### DETACH (R275) -/

/-- Nothing of the state but its life, its configuration, its environment and its trace is left. -/
theorem State.lose_congr {s t : State} (alive : t.alive = s.alive) (cfg : t.cfg = s.cfg) (env : t.env = s.env)
    (trace : t.trace = s.trace) : t.lose = s.lose := by
  simp only [State.lose, alive, cfg, env, trace]

/-- DETACH tells two states apart only by these, and by the line it releases. -/
theorem detachEvent_congr {s t : State} (alive : t.alive = s.alive) (cfg : t.cfg = s.cfg) (env : t.env = s.env)
    (trace : t.trace = s.trace) (released : releaseEvents t = releaseEvents s) : detachEvent t = detachEvent s := by
  have same : (detachIfAttached t.cancelAndWait).lose = (detachIfAttached s.cancelAndWait).lose := by
    rw [detachIfAttached_eq, detachIfAttached_eq]
    refine State.lose_congr alive cfg env ?_
    show t.trace ++ [.cancelAndWait] ++ releaseEvents t = s.trace ++ [.cancelAndWait] ++ releaseEvents s
    rw [trace, released]
  rw [detachEvent, detachEvent, same]

/-- Settles O44: the elements are those of `State.lose`, whose bounds are its laws. -/
theorem detachReleasesEverything : Obligations.DetachReleasesEverything := by
  constructor
  · intro s alive e
    obtain ⟨low, high⟩ := State.lose_calRef_range s.dropEvent.cancelAndWait.lineReleased
    refine ⟨_, _, _, State.lose_delayMin s.dropEvent.cancelAndWait.lineReleased, low, high,
      State.lose_status_le s.dropEvent.cancelAndWait.lineReleased, ?_⟩
    rw [step_detach alive e, detachEvent, detachIfAttached_eq]
    rfl
  · intro s t alive alive' e env cfg trace line handle
    rw [step_detach alive e, step_detach alive' (env ▸ e)]
    refine congrArg Host.Outcome.next (detachEvent_congr (alive'.trans alive.symm) cfg ?_ trace ?_)
    · exact congrArg Env.popEvent env
    · show releaseEvents t = releaseEvents s
      unfold releaseEvents
      rw [line]
      split
      · rw [handle ‹_›]
      · rfl

end Sys2Proof.Machine
end
